-- ==== Sys2Proof/Word.lean ====
section
/-! DEFINITION. The word types of the TDE: a byte, a 16-bit and a 32-bit value (00_scope R12, R15), and the RGBA8 pixel (R20). -/

namespace Sys2Proof

/-- A byte is 8 bits (R15). -/
abbrev Byte := BitVec 8

/-- A 16-bit value: a sample, a palette entry, a width or a height (R12). -/
abbrev Half := BitVec 16

/-- A 32-bit value: an offset or the declared size (R12, R13). -/
abbrev Word := BitVec 32

/-- A pixel value: four 8-bit channels `(R, G, B, A)` (R20). -/
structure Rgba where
  r : Byte
  g : Byte
  b : Byte
  a : Byte
  deriving DecidableEq, Repr

/-- `(0, 0, 0, 0)`, "fully transparent black": what a cell of a new pixel buffer holds (R60). -/
def transparent : Rgba := ⟨0, 0, 0, 0⟩

end Sys2Proof
end

