-- ==== Sys2Proof/Syntax.lean ====
section
/-! DEFINITION. What the engine interprets (00_scope R2, 30_encoding R110): the formats, the host's request, the header descriptor, the
sequencer's names, and `Instr`, one constructor for each row of spec/opcode_table.json. -/

namespace Sys2Proof

/-- The 11 pixel formats (30_encoding R121). -/
inductive PixFmt where
  | i4 | i8 | ia4 | ia8 | rgb565 | rgb5a3 | rgba32 | c4 | c8 | c14x2 | cmpr
  deriving DecidableEq, Repr

/-- The 3 palette formats (R122). -/
inductive PalFmt where
  | ia8 | rgb565 | rgb5a3
  deriving DecidableEq, Repr

/-- The three host operations (R124). -/
inductive OpCode where
  | decompress | parseHeader | decode
  deriving DecidableEq, Repr

/-- A host request: the operation code as given (any number, R341), the input buffer, and the header offset (R340; 0 unless given, R13). -/
structure Request where
  op : Nat
  inp : List Byte
  hb : Word := 0
  deriving DecidableEq, Repr

/-- The texture descriptor `DSC` (10_state R50): 17 fields; FORMAT and PAL_FMT are held as the raw byte and as the value it maps to. -/
structure Dsc where
  formatRaw : Byte
  format : PixFmt
  alpha : Byte
  width : Half
  height : Half
  wrapS : Byte
  wrapT : Byte
  palEn : Byte
  palFmtRaw : Byte
  palFmt : PalFmt
  colorCount : Half
  palOff : Word
  minFilter : Byte
  magFilter : Byte
  minLod : Byte
  maxLod : Byte
  mipCount : Byte
  lodBias : Half
  imgOff : Word
  deriving DecidableEq, Repr

/-- What reading 32 header bytes gives: a descriptor, or the code byte that maps to nothing (R123). -/
inductive HeaderResult where
  | ok (d : Dsc)
  | badFormat (raw : Byte)
  | badPalFormat (raw : Byte)
  deriving DecidableEq, Repr

/-- `PHASE`, the program-counter analog (10_state R33). -/
inductive Phase where
  | idle | lz | hdr | pal | asm | done | error
  deriving DecidableEq, Repr

/-- Which step of its phase the engine takes next (70_reset R425): the first (LZ.DETECT, HDR.PARSE, PAL.DECODE, ASM.START), the repeated one
(LZ.STEP, ASM.BLOCK), or completion. The model's own: DESIGN CHOICE, notes/assumptions/7.md. -/
inductive Seq where
  | first | loop | complete
  deriving DecidableEq, Repr

/-- What the engine is about to read, which decides how bits are taken apart (the table's "context" column). -/
inductive Ctx where
  /-- the payload byte at IP when NBITS = 0 (R126) -/
  | control
  /-- a token; `literal` is the control bit (R126 to R130) -/
  | token (literal : Bool)
  /-- the header byte at offset 0x00 (R121) -/
  | pixelFormat
  /-- a 16-bit palette entry under the header's palette-format code byte (R122, 41_palette R181) -/
  | paletteEntry (code : Byte)
  /-- a request of the host (R124); it is no byte sequence -/
  | request (r : Request)
  /-- a unit step that the sequencer selects; it has no bytes -/
  | sequencer (ph : Phase) (sq : Seq)
  deriving DecidableEq, Repr

/-- The instructions of the TDE: one constructor for each row of spec/opcode_table.json. -/
inductive Instr where
  /-- LZ.CTRL: a control byte (R126) -/
  | lzCtrl (f : Byte)
  /-- LZ.LIT: a literal token (R127) -/
  | lzLit (b : Byte)
  /-- LZ.REFS: a short back-reference, length nibble and distance (R128) -/
  | lzRefs (n : BitVec 4) (d : BitVec 12)
  /-- LZ.REFL: a long back-reference, distance and length byte (R129) -/
  | lzRefl (d : BitVec 12) (m : Byte)
  | fmtI4
  | fmtI8
  | fmtIA4
  | fmtIA8
  | fmtRGB565
  | fmtRGB5A3
  | fmtRGBA32
  | fmtC4
  | fmtC8
  | fmtC14X2
  | fmtCMPR
  /-- PALFMT.IA8 with the entry it converts (R122, R183) -/
  | palfmtIA8 (e : Half)
  /-- PALFMT.RGB565 with the entry it converts -/
  | palfmtRGB565 (e : Half)
  /-- PALFMT.RGB5A3 with the entry it converts -/
  | palfmtRGB5A3 (e : Half)
  /-- OP.DECOMPRESS with its operands IN and HB (R124, R340) -/
  | opDecompress (inp : List Byte) (hb : Word)
  /-- OP.PARSE_HEADER with its operands IN and HB -/
  | opParseHeader (inp : List Byte) (hb : Word)
  /-- OP.DECODE with its operands IN and HB -/
  | opDecode (inp : List Byte) (hb : Word)
  | lzDetect
  | hdrParse
  | palDecode
  | asmStart
  | asmBlock
  deriving DecidableEq, Repr

end Sys2Proof
end

