-- ==== Sys2Proof/Config.lean ====
section
/-! DEFINITION. The parameters of 00_scope R11, as plain data that State holds (they do not change after reset, 70_reset R415), their defaults,
and the one free value of the spec (44_lz_stream R305). -/

namespace Sys2Proof

/-- `LZ_OVERRUN` (R11, R322). -/
inductive Overrun where
  | fault | truncate | extend
  deriving DecidableEq, Repr

/-- The four bytes of `LZ_MAGIC` (R11, R125). -/
structure Magic where
  b0 : Byte
  b1 : Byte
  b2 : Byte
  b3 : Byte
  deriving DecidableEq, Repr

/-- The seven parameters of R11. A map is a list of pairs, the first match counts. For the three functions the list holds the arguments at
which the function differs from the spec's default, so that every function can be written: DESIGN CHOICE, notes/assumptions/3.md. -/
structure Params where
  lzMagic : Magic
  fmtCode : List (Byte × PixFmt)
  palCode : List (Byte × PalFmt)
  lzOverrun : Overrun
  cmprThird : List ((Byte × Byte) × Byte)
  cmprHalf : List ((Byte × Byte) × Byte)
  mipLevels : List (Byte × Nat)
  deriving DecidableEq, Repr

/-- The defaults of R11: "Yaz0", the code tables of R121 and R122, `Fault`, and the default functions. The spec marks the tag and the codes
[from general knowledge, not in source]: PRESUMED, notes/assumptions/2.md. -/
def Params.default : Params where
  lzMagic := ⟨0x59, 0x61, 0x7A, 0x30⟩
  fmtCode := [(0x00, .i4), (0x01, .i8), (0x02, .ia4), (0x03, .ia8), (0x04, .rgb565), (0x05, .rgb5a3), (0x06, .rgba32),
    (0x08, .c4), (0x09, .c8), (0x0A, .c14x2), (0x0E, .cmpr)]
  palCode := [(0x00, .ia8), (0x01, .rgb565), (0x02, .rgb5a3)]
  lzOverrun := .fault
  cmprThird := []
  cmprHalf := []
  mipLevels := []

/-- FREE VALUE. What LZ.INIT leaves in FLAGS: "any value (never read before the first load)" (R305). No body: nothing is known of it.
notes/assumptions/10.md. -/
opaque Config.freeFlags : Nat → Byte

end Sys2Proof
end

