-- ==== Sys2Proof/WellFormed.lean ====
section
/-! DEFINITION. Which instructions are well-formed: the constraints of spec/opcode_table.json that the operand types do not already say. -/

namespace Sys2Proof

/-- The table's constraint on LZ.REFS is `N != 0` (30_encoding R128: "high nibble is non-zero"); every other operand value is legal (R133). -/
def Instr.wellFormed : Instr → Bool
  | .lzRefs n _ => n != 0
  | .lzCtrl _ | .lzLit _ | .lzRefl _ _ => true
  | .fmtI4 | .fmtI8 | .fmtIA4 | .fmtIA8 | .fmtRGB565 | .fmtRGB5A3 | .fmtRGBA32 | .fmtC4 | .fmtC8 | .fmtC14X2 | .fmtCMPR => true
  | .palfmtIA8 _ | .palfmtRGB565 _ | .palfmtRGB5A3 _ => true
  | .opDecompress _ _ | .opParseHeader _ _ | .opDecode _ _ => true
  | .lzDetect | .hdrParse | .palDecode | .asmStart | .asmBlock => true

end Sys2Proof
end

