-- ==== Sys2Proof/Decode.lean ====
section
/-! DEFINITION. From bits to instructions and back (30_encoding R110 to R133): byte order, the header layout, the decoder, and after it the
encoder. What the decoder refuses it refuses with `none`; the machine names the error (R123, R312). -/

namespace Sys2Proof

/-- The bytes of the tag, in stream order (R125). -/
def magicBytes (m : Magic) : List Byte := [m.b0, m.b1, m.b2, m.b3]

/-- The value a list of pairs gives a key: that of the first pair with the key. -/
def lookupFirst {α β : Type} [DecidableEq α] : List (α × β) → α → Option β
  | [], _ => none
  | (k, v) :: rest, a => if k = a then some v else lookupFirst rest a

/-- `FMT_CODE` (R121). -/
def fmtOfCode (p : Params) (c : Byte) : Option PixFmt := lookupFirst p.fmtCode c

/-- `PAL_CODE` (R122). -/
def palOfCode (p : Params) (c : Byte) : Option PalFmt := lookupFirst p.palCode c

/-- Big-endian value of a byte sequence: the byte at the lower address is the more significant (20_memory R82, R83). -/
def beNat (bs : List Byte) : Nat := bs.foldl (fun acc b => acc * 256 + b.toNat) 0

/-- The `n` big-endian bytes of a value. -/
def beBytes : Nat → Nat → List Byte
  | 0, _ => []
  | n + 1, v => BitVec.ofNat 8 (v / 256 ^ n) :: beBytes n v

/-- The header field of `n` bytes at offset `off` (R120). -/
def headerField (h : List Byte) (off n : Nat) : Nat := beNat ((h.drop off).take n)

/-- The header layout of R120, applied to 32 header bytes: the format code is checked before the palette-format code (40_header R157), and
bytes 0x10 to 0x13 and 0x19 are not read (R131). -/
def decodeHeader (p : Params) (h : List Byte) : HeaderResult :=
  let fmtRaw : Byte := BitVec.ofNat 8 (headerField h 0x00 1)
  let palRaw : Byte := BitVec.ofNat 8 (headerField h 0x09 1)
  match fmtOfCode p fmtRaw with
  | none => .badFormat fmtRaw
  | some f =>
    match palOfCode p palRaw with
    | none => .badPalFormat palRaw
    | some pf => .ok {
        formatRaw := fmtRaw
        format := f
        alpha := BitVec.ofNat 8 (headerField h 0x01 1)
        width := BitVec.ofNat 16 (headerField h 0x02 2)
        height := BitVec.ofNat 16 (headerField h 0x04 2)
        wrapS := BitVec.ofNat 8 (headerField h 0x06 1)
        wrapT := BitVec.ofNat 8 (headerField h 0x07 1)
        palEn := BitVec.ofNat 8 (headerField h 0x08 1)
        palFmtRaw := palRaw
        palFmt := pf
        colorCount := BitVec.ofNat 16 (headerField h 0x0A 2)
        palOff := BitVec.ofNat 32 (headerField h 0x0C 4)
        minFilter := BitVec.ofNat 8 (headerField h 0x14 1)
        magFilter := BitVec.ofNat 8 (headerField h 0x15 1)
        minLod := BitVec.ofNat 8 (headerField h 0x16 1)
        maxLod := BitVec.ofNat 8 (headerField h 0x17 1)
        mipCount := BitVec.ofNat 8 (headerField h 0x18 1)
        lodBias := BitVec.ofNat 16 (headerField h 0x1A 2)
        imgOff := BitVec.ofNat 32 (headerField h 0x1C 4) }

/-- The instruction a pixel format's code selects (R121). -/
def fmtInstr : PixFmt → Instr
  | .i4 => .fmtI4
  | .i8 => .fmtI8
  | .ia4 => .fmtIA4
  | .ia8 => .fmtIA8
  | .rgb565 => .fmtRGB565
  | .rgb5a3 => .fmtRGB5A3
  | .rgba32 => .fmtRGBA32
  | .c4 => .fmtC4
  | .c8 => .fmtC8
  | .c14x2 => .fmtC14X2
  | .cmpr => .fmtCMPR

/-- The instruction a palette format's code selects, with the entry it converts (R122, 41_palette R183). -/
def palInstr (e : Half) : PalFmt → Instr
  | .ia8 => .palfmtIA8 e
  | .rgb565 => .palfmtRGB565 e
  | .rgb5a3 => .palfmtRGB5A3 e

/-- The operation a request asks for; a code other than 1, 2 and 3 starts none (R124). -/
def decodeRequest (r : Request) : Option Instr :=
  if r.op = 1 then some (.opDecompress r.inp r.hb)
  else if r.op = 2 then some (.opParseHeader r.inp r.hb)
  else if r.op = 3 then some (.opDecode r.inp r.hb)
  else none

/-- The distance field: `(byte1[3:0] << 8) | byte2` (R128, R129, R145). -/
def distanceOf (b1 b2 : Byte) : BitVec 12 := b1.extractLsb' 0 4 ++ b2

/-- The next token (R130): control bit 1 gives one byte; control bit 0 gives two bytes if the first byte's high nibble is not zero and three
if it is. `none` when the bytes run out. -/
def decodeToken : Bool → List Byte → Option (Instr × List Byte)
  | true, b :: rest => some (.lzLit b, rest)
  | false, b1 :: b2 :: rest =>
    if b1.extractLsb' 4 4 = 0 then
      match rest with
      | b3 :: rest' => some (.lzRefl (distanceOf b1 b2) b3, rest')
      | [] => none
    else some (.lzRefs (b1.extractLsb' 4 4) (distanceOf b1 b2), rest)
  | true, [] => none
  | false, _ => none

/-- The unit step that a phase and its sequencer select (45_operations R345, 70_reset R425). -/
def decodeSequencer : Phase → Seq → Option Instr
  | .lz, .first => some .lzDetect
  | .hdr, .first => some .hdrParse
  | .pal, .first => some .palDecode
  | .asm, .first => some .asmStart
  | .asm, .loop => some .asmBlock
  | _, _ => none

/-- The decoder: the instruction at the front of the bytes, as the context reads them, and the bytes after it. -/
def decode (p : Params) : Ctx → List Byte → Option (Instr × List Byte)
  | .control, b :: rest => some (.lzCtrl b, rest)
  | .control, [] => none
  | .token lit, bs => decodeToken lit bs
  | .pixelFormat, c :: rest => (fmtOfCode p c).map fun f => (fmtInstr f, rest)
  | .pixelFormat, [] => none
  | .paletteEntry c, hi :: lo :: rest => (palOfCode p c).map fun f => (palInstr (hi ++ lo) f, rest)
  | .paletteEntry _, _ => none
  | .request r, bs => (decodeRequest r).map fun i => (i, bs)
  | .sequencer ph sq, bs => (decodeSequencer ph sq).map fun i => (i, bs)

/-- The first code of a table that maps to a value and is not hidden by an earlier pair. -/
def codeFor {β : Type} [DecidableEq β] (table : List (Byte × β)) (v : β) : Option Byte :=
  (table.find? fun e => decide (lookupFirst table e.1 = some v)).map Prod.fst

/-- The encoding of a pixel-format instruction: its code byte (R121). -/
def encodeFmt (p : Params) (f : PixFmt) : Option (Ctx × List Byte) := (codeFor p.fmtCode f).map fun c => (.pixelFormat, [c])

/-- The encoding of a palette-format instruction: its code byte, and the entry's two bytes, high byte first (R122, R82). -/
def encodePal (p : Params) (f : PalFmt) (e : Half) : Option (Ctx × List Byte) :=
  (codeFor p.palCode f).map fun c => (.paletteEntry c, [e.extractLsb' 8 8, e.extractLsb' 0 8])

/-- The encoder: the context an instruction is read in and its bytes there (R121 to R129). `none` only where the parameters give a format no
code. -/
def encode (p : Params) : Instr → Option (Ctx × List Byte)
  | .lzCtrl f => some (.control, [f])
  | .lzLit b => some (.token true, [b])
  | .lzRefs n d => some (.token false, [n ++ d.extractLsb' 8 4, d.extractLsb' 0 8])
  | .lzRefl d m => some (.token false, [(0 : BitVec 4) ++ d.extractLsb' 8 4, d.extractLsb' 0 8, m])
  | .fmtI4 => encodeFmt p .i4
  | .fmtI8 => encodeFmt p .i8
  | .fmtIA4 => encodeFmt p .ia4
  | .fmtIA8 => encodeFmt p .ia8
  | .fmtRGB565 => encodeFmt p .rgb565
  | .fmtRGB5A3 => encodeFmt p .rgb5a3
  | .fmtRGBA32 => encodeFmt p .rgba32
  | .fmtC4 => encodeFmt p .c4
  | .fmtC8 => encodeFmt p .c8
  | .fmtC14X2 => encodeFmt p .c14x2
  | .fmtCMPR => encodeFmt p .cmpr
  | .palfmtIA8 e => encodePal p .ia8 e
  | .palfmtRGB565 e => encodePal p .rgb565 e
  | .palfmtRGB5A3 e => encodePal p .rgb5a3 e
  | .opDecompress inp hb => some (.request ⟨1, inp, hb⟩, [])
  | .opParseHeader inp hb => some (.request ⟨2, inp, hb⟩, [])
  | .opDecode inp hb => some (.request ⟨3, inp, hb⟩, [])
  | .lzDetect => some (.sequencer .lz .first, [])
  | .hdrParse => some (.sequencer .hdr .first, [])
  | .palDecode => some (.sequencer .pal .first, [])
  | .asmStart => some (.sequencer .asm .first, [])
  | .asmBlock => some (.sequencer .asm .loop, [])

/-- The 32 header bytes of a descriptor (R120), with zeros in the bytes that carry no field (R131). -/
def encodeHeader (d : Dsc) : List Byte :=
  [d.formatRaw, d.alpha] ++ beBytes 2 d.width.toNat ++ beBytes 2 d.height.toNat ++ [d.wrapS, d.wrapT, d.palEn, d.palFmtRaw] ++
  beBytes 2 d.colorCount.toNat ++ beBytes 4 d.palOff.toNat ++ [0, 0, 0, 0] ++
  [d.minFilter, d.magFilter, d.minLod, d.maxLod, d.mipCount, 0] ++ beBytes 2 d.lodBias.toNat ++ beBytes 4 d.imgOff.toNat

/-- The instruction read from the bits `w` of a row of spec/opcode_table.json that is `nbits` long. The table does not say the context of its
rows, so it is taken from the length: 8 bits are a pixel-format code, and a control byte where they are no such code; 16 and 24 bits are a
back-reference (a 16-bit word with high nibble 0 is one whose third byte is 0); 32 bits are the start of a stream (LZ.DETECT); 256 bits are a
header (HDR.PARSE). notes/assumptions/15.md. -/
def decodeTableWord (nbits w : Nat) : Option Instr :=
  let first (o : Option (Instr × List Byte)) : Option Instr := o.map Prod.fst
  if nbits = 8 then
    (first (decode Params.default .pixelFormat (beBytes 1 w))).orElse fun _ => first (decode Params.default .control (beBytes 1 w))
  else if nbits = 16 then first (decode Params.default (.token false) (beBytes 2 w ++ [0]))
  else if nbits = 24 then first (decode Params.default (.token false) (beBytes 3 w))
  else if nbits = 32 then decodeSequencer .lz .first
  else if nbits = 256 then decodeSequencer .hdr .first
  else none

end Sys2Proof
end

