-- ==== Sys2Proof/Machine/State.lean ====
section
/-! DEFINITION. The state of the TDE (10_state R32), its state after reset (70_reset R410), the errors of 60_exceptions, and the reasons a step
can stop. -/

namespace Sys2Proof.Machine

/-- `STATUS.STATE` (R35). -/
inductive EngState where
  | idle | busy | done | error
  deriving DecidableEq, Repr

/-- `STATUS.ERR_STAGE` (R35): the unit an error is attributed to (60_exceptions R372). -/
inductive Stage where
  | none | decompress | header | palette | block
  deriving DecidableEq, Repr

/-- `STATUS.ERR_CODE` (R371). -/
inductive ErrCode where
  | none | outOfRange | unknownFormat | unknownPaletteFormat | lzBackref | lzTruncated | lzOverrun
  deriving DecidableEq, Repr

/-- The status register the host reads (R35). ERR_ADDR has "no value" as one of its states; it is negative for LzBackref (R371, V-LZ-7):
notes/assumptions/9.md. -/
structure Status where
  state : EngState
  errStage : Stage
  errCode : ErrCode
  errAddr : Option Int
  deriving DecidableEq, Repr

/-- What a step that raises an error records (R380). -/
structure Err where
  code : ErrCode
  stage : Stage
  addr : Int
  deriving DecidableEq, Repr

/-- The registers whose reset value is "no value" (R410): reading one before it is written has no result (R77). -/
inductive Reg where
  | errAddr | op | hb | inp | ip | out | dsize | flags | nbits | src | cnt | wb | dsc | geom | pal | bX | bY | bK | pb | blk | rslt
  | resBytes | resDsc | resPb | resRegion
  deriving DecidableEq, Repr

/-- The derived geometry registers BW, BH, BBYTES, NBX, NBY, NBLK (R53), written together by the header parser (R151). -/
structure Geom where
  bw : Nat
  bh : Nat
  bbytes : Nat
  nbx : Nat
  nby : Nat
  nblk : Nat
  deriving DecidableEq, Repr

/-- The pixel buffer PB (R60): its size, and its cells as pairs of linear index `y * width + x` and pixel, in one canonical form: indexes
strictly rising, none at or past `width * height`, no entry `(0, 0, 0, 0)`, which is what an unlisted cell reads as. notes/assumptions/11.md. -/
structure PixBuf where
  width : Nat
  height : Nat
  cells : List (Nat × Rgba)
  deriving DecidableEq, Repr

/-- The reasons the machine stops. -/
inductive Fault where
  /-- A register that holds no value was read (R77, U15: "A model that reads one must fault rather than return a value"). Raised by `need`,
  `readDsc`, `runFormat` (a byte of BLK that was not copied) and the host's reads. Safe: the machine stops where the spec gives the read no result. -/
  | noValue (r : Reg)
  /-- A unit was to run or to finish in a phase that the operation does not have (45_operations R345). Raised by the sequencer and by the leaving
  of LZ and HDR; no run reaches it. Safe. notes/assumptions/16.md. -/
  | phaseOrder
  deriving DecidableEq, Repr

/-- The reasons an instruction has no meaning. -/
inductive Refusal where
  /-- The arm has no meaning yet; only exec's arms say so. Safe. -/
  | notModelled (mnemonic : String)
  /-- The host starts an operation while STATE = BUSY: "no move" (R341, 70_reset R430, U17 `refuse`). Raised by the three OP instructions; a step
  never does, since it takes a request only outside an operation. Safe. notes/assumptions/6.md. -/
  | busy
  deriving DecidableEq, Repr

/-- The state of the TDE: the registers of R32 under their names, and five fields of the model's own (`params`, `requests`, `freeCount`, `seq`,
`rslt`; INVENTORY.md). `none` is the spec's own state "no value" (R77, R410): notes/assumptions/1.md. -/
structure State where
  /-- the parameters of R11; no step changes them (R415) -/
  params : Params
  /-- the requests the host will make, oldest first (R340, R341): notes/assumptions/4.md -/
  requests : List Request
  /-- how many free values have been taken: notes/assumptions/10.md -/
  freeCount : Nat
  /-- PHASE (R33) -/
  phase : Phase
  /-- which step of the phase is next: notes/assumptions/7.md -/
  seq : Seq
  /-- OP (R34) -/
  op : Option OpCode
  /-- HB, the header base (R34) -/
  hb : Option Word
  /-- IN, and with its length IN_LEN (R40) -/
  inp : Option (List Byte)
  /-- STATUS (R35) -/
  status : Status
  /-- IP, the LZ input cursor (R41) -/
  ip : Option Nat
  /-- OUT, the output accumulator (R42) -/
  out : Option (List Byte)
  /-- DSIZE, the declared size (R43) -/
  dsize : Option Word
  /-- FLAGS, the control byte (R44) -/
  flags : Option Byte
  /-- NBITS, the valid control bits, 0..8 (R45) -/
  nbits : Option Nat
  /-- SRC, the copy source index (R46) -/
  src : Option Int
  /-- CNT, the bytes still to copy (R47) -/
  cnt : Option Nat
  /-- WB, the work buffer (R48) -/
  wb : Option (List Byte)
  /-- DSC, the descriptor (R50) -/
  dsc : Option Dsc
  /-- DSC_VALID (R52) -/
  dscValid : Bool
  /-- BW, BH, BBYTES, NBX, NBY, NBLK (R53) -/
  geom : Option Geom
  /-- PAL, and with its length PAL_LEN (R55) -/
  pal : Option (List Rgba)
  /-- BX (R57) -/
  bX : Option Nat
  /-- BY (R58) -/
  bY : Option Nat
  /-- BK (R59) -/
  bK : Option Nat
  /-- PB (R60) -/
  pb : Option PixBuf
  /-- BLK, the block scratch, which exists only during one block step (R62) -/
  blk : Option (List Byte)
  /-- the block decoder's results on their way to the assembler, row by row; `none` inside is `absent` (R205): notes/assumptions/13.md -/
  rslt : Option (List (Option Rgba))
  /-- RES_BYTES (R70) -/
  resBytes : Option (List Byte)
  /-- RES_DSC (R70) -/
  resDsc : Option Dsc
  /-- RES_PB (R70) -/
  resPb : Option PixBuf
  /-- RES_REGION (R70, 43_assembler R285) -/
  resRegion : Option Nat
  deriving DecidableEq, Repr

/-- The state after reset (R410): PHASE and STATE IDLE, no error, DSC_VALID 0, every other register without a value; the parameters at the defaults
of R11 (R415). -/
def State.reset : State where
  params := Params.default
  requests := []
  freeCount := 0
  phase := .idle
  seq := .first
  op := none
  hb := none
  inp := none
  status := ⟨.idle, .none, .none, none⟩
  ip := none
  out := none
  dsize := none
  flags := none
  nbits := none
  src := none
  cnt := none
  wb := none
  dsc := none
  dscValid := false
  geom := none
  pal := none
  bX := none
  bY := none
  bK := none
  pb := none
  blk := none
  rslt := none
  resBytes := none
  resDsc := none
  resPb := none
  resRegion := none

/-- IN_LEN, the length of IN (R40): `none` while IN holds no value. -/
def State.inLen (s : State) : Option Nat := s.inp.map List.length

/-- PAL_LEN, the number of palette entries (R55): `none` while PAL holds no value. -/
def State.palLen (s : State) : Option Nat := s.pal.map List.length

end Sys2Proof.Machine
end

