-- ==== Sys2Proof/Machine/Operands.lean ====
section
/-! DEFINITION. Operand forms: reading a buffer (00_scope R18), the block geometry (30_encoding R121), the sample layouts (R134 to R143), channel
expansion (42_block_decoder R200 to R203), the operands of a back-reference (R145), and the functions the parameters give (00_scope R11). -/

namespace Sys2Proof.Machine

/-- `MemRead(buf, addr, n)` (R18, R83): a big-endian value, or nothing where a byte lies past the end (R87). No address wraps (R81). -/
def memRead (buf : List Byte) (a n : Nat) : Option Nat :=
  if a + n ≤ buf.length then some (beNat ((buf.drop a).take n)) else none

/-- `BW` of a format (R121). -/
def blockWidth : PixFmt → Nat
  | .i4 | .i8 | .ia4 | .c4 | .c8 | .cmpr => 8
  | .ia8 | .rgb565 | .rgb5a3 | .rgba32 | .c14x2 => 4

/-- `BH` of a format (R121). -/
def blockHeight : PixFmt → Nat
  | .i4 | .c4 | .cmpr => 8
  | .i8 | .ia4 | .c8 | .ia8 | .rgb565 | .rgb5a3 | .rgba32 | .c14x2 => 4

/-- `BBYTES` of a format (R121). -/
def blockBytes : PixFmt → Nat
  | .rgba32 => 64
  | .i4 | .i8 | .ia4 | .ia8 | .rgb565 | .rgb5a3 | .c4 | .c8 | .c14x2 | .cmpr => 32

/-- Bits per pixel of a format (R54, R121); C14X2 counts at its storage width (90_conflicts C10). -/
def bitsPerPixel : PixFmt → Nat
  | .i4 | .c4 | .cmpr => 4
  | .i8 | .ia4 | .c8 => 8
  | .ia8 | .rgb565 | .rgb5a3 | .c14x2 => 16
  | .rgba32 => 32

/-- The indexed formats (00_scope R24). -/
def isIndexed : PixFmt → Bool
  | .c4 | .c8 | .c14x2 => true
  | .i4 | .i8 | .ia4 | .ia8 | .rgb565 | .rgb5a3 | .rgba32 | .cmpr => false

/-- `ceil(a / b)` (R15). -/
def ceilDiv (a b : Nat) : Nat := (a + b - 1) / b

/-- `BLK[k]`, for `k` inside the window (R211). -/
def blkByte (blk : List Byte) (k : Nat) : Byte := blk.getD k 0

/-- The 16-bit sample `j`: `MemRead(BLK, 2j, 2)` (R137 to R139, R143). -/
def blkHalf (blk : List Byte) (j : Nat) : Half := blkByte blk (2 * j) ++ blkByte blk (2 * j + 1)

/-- The 4-bit sample `j`: the high nibble of a byte comes first (R134, 20_memory R84). -/
def blkNibble (blk : List Byte) (j : Nat) : BitVec 4 :=
  if j % 2 = 0 then (blkByte blk (j / 2)).extractLsb' 4 4 else (blkByte blk (j / 2)).extractLsb' 0 4

/-- `Expand3` (R200). -/
def expand3 (v : BitVec 3) : Byte := (v.setWidth 8 <<< 5) ||| (v.setWidth 8 <<< 2) ||| (v.setWidth 8 >>> 1)

/-- `Expand4` (R201). -/
def expand4 (v : BitVec 4) : Byte := (v.setWidth 8 <<< 4) ||| v.setWidth 8

/-- `Expand5` (R202). -/
def expand5 (v : BitVec 5) : Byte := (v.setWidth 8 <<< 3) ||| (v.setWidth 8 >>> 2)

/-- `Expand6` (R203). -/
def expand6 (v : BitVec 6) : Byte := (v.setWidth 8 <<< 2) ||| (v.setWidth 8 >>> 4)

/-- `CMPR_THIRD(a, b)`, by default `floor((2a + b) / 3)` (R11, R251). -/
def cmprThird (p : Params) (a b : Byte) : Byte :=
  (lookupFirst p.cmprThird (a, b)).getD (BitVec.ofNat 8 ((2 * a.toNat + b.toNat) / 3))

/-- `CMPR_HALF(a, b)`, by default `floor((a + b) / 2)` (R11, R251). -/
def cmprHalf (p : Params) (a b : Byte) : Byte :=
  (lookupFirst p.cmprHalf (a, b)).getD (BitVec.ofNat 8 ((a.toNat + b.toNat) / 2))

/-- `MIP_LEVELS(c)`, by default `max(c, 1)` levels counting the base (R11, R285). -/
def mipLevels (p : Params) (c : Byte) : Nat := (lookupFirst p.mipLevels c).getD (max c.toNat 1)

/-- The length of a short back-reference: `N + 2`, 3 to 17 (R128). -/
def shortLength (n : BitVec 4) : Nat := n.toNat + 2

/-- The length of a long back-reference: `byte3 + 0x12`, 18 to 273 (R129). -/
def longLength (m : Byte) : Nat := m.toNat + 0x12

/-- The copy source index `SRC = |OUT| - (d + 1)`, a signed integer (R145). -/
def sourceIndex (outLen d : Nat) : Int := (outLen : Int) - ((d : Int) + 1)

end Sys2Proof.Machine
end

