-- ==== Sys2Proof/Machine/Flags.lean ====
section
/-! DEFINITION. FLAGS, the TDE's only condition-code register, and NBITS (10_state R44, R45; 44_lz_stream R306, R310, R323), and the numeric codes
of the STATUS fields (R35, R371). -/

namespace Sys2Proof.Machine

/-- FLAGS[7], the next control bit: 1 selects a literal, 0 a back-reference (R44, R126). -/
def controlBit (flags : Byte) : Bool := flags.getLsbD 7

/-- FLAGS after a token: `(FLAGS << 1) & 0xFF` (R323). -/
def shiftFlags (flags : Byte) : Byte := flags <<< 1

/-- NBITS after a token: one less (R323). -/
def countBits (nbits : Nat) : Nat := nbits - 1

/-- NBITS after a control byte is loaded (R310). -/
def loadedBits : Nat := 8

/-- The numeric value of STATE, 2 bits (R35). -/
def stateCode : EngState → BitVec 2
  | .idle => 0
  | .busy => 1
  | .done => 2
  | .error => 3

/-- The numeric value of ERR_STAGE, 3 bits (R35). -/
def stageCode : Stage → BitVec 3
  | .none => 0
  | .decompress => 1
  | .header => 2
  | .palette => 3
  | .block => 4

/-- The numeric value of ERR_CODE, 4 bits (R371). -/
def errorCode : ErrCode → BitVec 4
  | .none => 0
  | .outOfRange => 1
  | .unknownFormat => 2
  | .unknownPaletteFormat => 3
  | .lzBackref => 4
  | .lzTruncated => 5
  | .lzOverrun => 6

end Sys2Proof.Machine
end

