-- ==== Sys2Proof/Machine/Ops.lean ====
section
/-! DEFINITION. The named operations over registers and memory: reading a register, reading and writing a buffer, the pixel buffer, starting and
completing an operation, leaving a phase, and raising an error (60_exceptions R380), which is the TDE's one exception entry. -/

namespace Sys2Proof.Machine

/-- What stops a unit before it has its result: an error of the operation (R370), or a fault of the machine. -/
inductive Stop where
  | raised (e : Err)
  | faulted (f : Fault)
  deriving DecidableEq, Repr

/-- A unit's answer: its result, or why there is none. -/
abbrev Res (α : Type) := Except Stop α

/-- `raise E(stage, addr)` (R20). -/
def raise {α : Type} (code : ErrCode) (stage : Stage) (addr : Int) : Res α := .error (.raised ⟨code, stage, addr⟩)

/-- A fault (R77). -/
def faultWith {α : Type} (f : Fault) : Res α := .error (.faulted f)

/-- Read a register: one that holds no value has none to give (R77). -/
def need {α : Type} (r : Reg) : Option α → Res α
  | some a => .ok a
  | none => faultWith (.noValue r)

/-- Read DSC: "Every rule that reads a DSC field runs only when DSC_VALID = 1" (R52). -/
def readDsc (s : State) : Res Dsc := if s.dscValid then need .dsc s.dsc else faultWith (.noValue .dsc)

/-- The result registers hold no value (R341, R380). -/
def clearResults (s : State) : State := { s with resBytes := none, resDsc := none, resPb := none, resRegion := none }

/-- RaiseError (R380): STATUS records the error, the results are cleared, PHASE and STATE become ERROR. -/
def raiseError (e : Err) (s : State) : State :=
  { clearResults s with status := ⟨.error, e.stage, e.code, some e.addr⟩, phase := .error }

/-- The outcome of a unit's step at `s`. An error is entered from `s` itself: "The step that raised the error writes none of its own results"
(R380). -/
def settle (s : State) : Res State → Host.Outcome State Fault Refusal
  | .ok t => .next t
  | .error (.raised e) => .next (raiseError e s)
  | .error (.faulted f) => .fault f

/-- The error that `t` has entered, entered from `s` instead: for a step that runs two instructions and raises in the second, so that the first
writes nothing either (R380). -/
def abortTo (s t : State) : State := { clearResults s with status := t.status, phase := .error }

/-- Start (R341), for a legal code. Every register R341 does not write holds no value: "No state survives from one operation to the next except
the result registers the host reads and the STATUS register" (R31); notes/assumptions/8.md. The model's own fields stay. -/
def start (op : OpCode) (inp : List Byte) (hb : Word) (s : State) : State :=
  { State.reset with
    params := s.params
    requests := s.requests
    freeCount := s.freeCount
    op := some op
    inp := some inp
    hb := some hb
    status := ⟨.busy, .none, .none, none⟩
    dscValid := false
    phase := if op = .parseHeader then .hdr else .lz
    seq := .first }

/-- An OP instruction: Start, or no move while STATE = BUSY (R341, R430, U17). -/
def startWhenFree (s : State) (t : State) : Host.Outcome State Fault Refusal :=
  if s.status.state = .busy then .refused .busy else .next t

/-- Completion (R349): PHASE and STATE become DONE; the results are already written (R97). -/
def completeOp (s : State) : State := { s with phase := .done, status := { s.status with state := .done } }

/-- The first step of a phase is next (R345). -/
def enterPhase (ph : Phase) (s : State) : State := { s with phase := ph, seq := .first }

/-- Leaving LZ with the result `L` (R346): DECOMPRESS delivers it and completes, DECODE makes it the work buffer and goes on to the header. -/
def leaveLz (l : List Byte) (s : State) : Res State := do
  let op ← need .op s.op
  match op with
  | .decompress => .ok { s with resBytes := some l, seq := .complete }
  | .decode => .ok (enterPhase .hdr { s with wb := some l })
  | .parseHeader => faultWith .phaseOrder

/-- `OutPush(b)`: append a byte to OUT (R18). -/
def outPush (out : List Byte) (b : Byte) : List Byte := out ++ [b]

/-- The cell with index `k` of a canonical cell list; one not listed is transparent (R60). -/
def getCell (k : Nat) : List (Nat × Rgba) → Rgba
  | [] => transparent
  | (j, q) :: rest => if j = k then q else getCell k rest

/-- The entry for index `k` in front of larger ones; a transparent cell is not listed. -/
def consCell (k : Nat) (p : Rgba) (rest : List (Nat × Rgba)) : List (Nat × Rgba) :=
  if p = transparent then rest else (k, p) :: rest

/-- Write the cell with index `k`, keeping the canonical form. -/
def setCell (k : Nat) (p : Rgba) : List (Nat × Rgba) → List (Nat × Rgba)
  | [] => consCell k p []
  | (j, q) :: rest =>
    if k < j then consCell k p ((j, q) :: rest)
    else if k = j then consCell k p rest
    else (j, q) :: setCell k p rest

/-- A new pixel buffer: every cell `(0, 0, 0, 0)` (R272). -/
def newPixBuf (w h : Nat) : PixBuf := ⟨w, h, []⟩

/-- `PB[x, y]` (R60): element `y * width + x`; no value outside the buffer. -/
def pixRead (pb : PixBuf) (x y : Nat) : Option Rgba :=
  if x < pb.width ∧ y < pb.height then some (getCell (y * pb.width + x) pb.cells) else none

/-- `PixWrite(x, y, p)` (R18): write one pixel. There is no cell outside the buffer, so nothing is written there (R276). -/
def pixWrite (pb : PixBuf) (x y : Nat) (p : Rgba) : PixBuf :=
  if x < pb.width ∧ y < pb.height then { pb with cells := setCell (y * pb.width + x) p pb.cells } else pb

/-- Indexes strictly rising from `lo`, all below `hi`, and no transparent entry. -/
def cellsWf (lo hi : Nat) : List (Nat × Rgba) → Bool
  | [] => true
  | (k, p) :: rest => decide (lo ≤ k) && decide (k < hi) && decide (p ≠ transparent) && cellsWf (k + 1) hi rest

/-- The canonical form of a pixel buffer. -/
def pixBufWf (pb : PixBuf) : Bool := cellsWf 0 (pb.width * pb.height) pb.cells

/-- The canonical form of the state's memories. The byte spaces IN, OUT, WB and BLK are sequences, each its own only form; PB and RES_PB are in the
form of `pixBufWf`. notes/assumptions/11.md. -/
def Memory.wf (s : State) : Bool := s.pb.all pixBufWf && s.resPb.all pixBufWf

end Sys2Proof.Machine
end

