-- ==== Sys2Proof/Machine/Pixel.lean ====
section
/-! DEFINITION. The 16-bit colour conversions (42_block_decoder R227, R229, R231) and what uses them alone: the palette-format instructions and
PAL.DECODE (41_palette). -/

namespace Sys2Proof.Machine

/-- `IA8Pixel(v)` (R227). -/
def ia8Pixel (v : Half) : Rgba :=
  ⟨v.extractLsb' 0 8, v.extractLsb' 0 8, v.extractLsb' 0 8, v.extractLsb' 8 8⟩

/-- `RGB565Pixel(v)` (R229). -/
def rgb565Pixel (v : Half) : Rgba :=
  ⟨expand5 (v.extractLsb' 11 5), expand6 (v.extractLsb' 5 6), expand5 (v.extractLsb' 0 5), 255⟩

/-- `RGB5A3Pixel(v)` (R231). -/
def rgb5a3Pixel (v : Half) : Rgba :=
  if v.getLsbD 15 then ⟨expand5 (v.extractLsb' 10 5), expand5 (v.extractLsb' 5 5), expand5 (v.extractLsb' 0 5), 255⟩
  else ⟨expand4 (v.extractLsb' 8 4), expand4 (v.extractLsb' 4 4), expand4 (v.extractLsb' 0 4), expand3 (v.extractLsb' 12 3)⟩

/-- `PalConvert(fmt, e)` (R183). -/
def palConvert : PalFmt → Half → Rgba
  | .ia8, e => ia8Pixel e
  | .rgb565, e => rgb565Pixel e
  | .rgb5a3, e => rgb5a3Pixel e

/-- The next palette entry: "insertion order = palette index" (R184). A palette that holds no value is not read (10_state R77).
notes/assumptions/14.md. -/
def pushEntry (c : Rgba) (s : State) : Res State := do
  let pal ← need .pal s.pal
  .ok { s with pal := some (pal ++ [c]) }

/-- PALFMT.IA8: convert one entry (R183, R227). -/
def execPalfmtIA8 (e : Half) (s : State) : Host.Outcome State Fault Refusal := settle s (pushEntry (ia8Pixel e) s)

/-- PALFMT.RGB565: convert one entry (R183, R229). -/
def execPalfmtRGB565 (e : Half) (s : State) : Host.Outcome State Fault Refusal := settle s (pushEntry (rgb565Pixel e) s)

/-- PALFMT.RGB5A3: convert one entry (R183, R231). -/
def execPalfmtRGB5A3 (e : Half) (s : State) : Host.Outcome State Fault Refusal := settle s (pushEntry (rgb5a3Pixel e) s)

/-- The 16-bit big-endian entries of a palette region, in byte order (R181, R184). -/
def paletteEntries : Nat → List Byte → List Half
  | n + 1, hi :: lo :: rest => (hi ++ lo : Half) :: paletteEntries n rest
  | _, _ => []

/-- PAL.DECODE (R180, R181) and leaving PAL (45_operations R348): the whole region is checked first; with no entries WB is not read (R182). -/
def palDecodeStep (s : State) : Res State := do
  let d ← readDsc s
  if isIndexed d.format then
    let hb ← need .hb s.hb
    let base := hb.toNat + d.palOff.toNat
    let n := d.colorCount.toNat
    if n = 0 then .ok (enterPhase .asm { s with pal := some [] })
    else
      let wb ← need .wb s.wb
      if wb.length < base + 2 * n then raise .outOfRange .palette (base : Int)
      else .ok (enterPhase .asm { s with pal := some ((paletteEntries n (wb.drop base)).map (palConvert d.palFmt)) })
  else .ok (enterPhase .asm { s with pal := some [] })

/-- PAL.DECODE. -/
def execPalDecode (s : State) : Host.Outcome State Fault Refusal := settle s (palDecodeStep s)

end Sys2Proof.Machine
end

