-- ==== Sys2Proof/Machine/Block.lean ====
section
/-! DEFINITION. The block decoder (42_block_decoder R210 to R263): for each format a pure function from the block window (and the palette) to
`BW * BH` results in row-major order, and the format instructions, which run it on BLK and hand the results to the assembler. -/

namespace Sys2Proof.Machine

/-- A result `(i, i, i, a)`. -/
def grey (i a : Byte) : Option Rgba := some ⟨i, i, i, a⟩

/-- `PalLookup(k)` (R246): `none` is `absent` (R262). -/
def palLookup (pal : List Rgba) (k : Nat) : Option Rgba := pal[k]?

/-- FMT.I4 (R220). -/
def decodeI4 (blk : List Byte) : List (Option Rgba) :=
  (List.range 64).map fun j => grey (expand4 (blkNibble blk j)) (expand4 (blkNibble blk j))

/-- FMT.I8 (R222). -/
def decodeI8 (blk : List Byte) : List (Option Rgba) := (List.range 32).map fun j => grey (blkByte blk j) (blkByte blk j)

/-- FMT.IA4 (R224): alpha is the high nibble (R136). -/
def decodeIA4 (blk : List Byte) : List (Option Rgba) :=
  (List.range 32).map fun j => grey (expand4 ((blkByte blk j).extractLsb' 0 4)) (expand4 ((blkByte blk j).extractLsb' 4 4))

/-- FMT.IA8 (R226). -/
def decodeIA8 (blk : List Byte) : List (Option Rgba) := (List.range 16).map fun j => some (ia8Pixel (blkHalf blk j))

/-- FMT.RGB565 (R228). -/
def decodeRGB565 (blk : List Byte) : List (Option Rgba) := (List.range 16).map fun j => some (rgb565Pixel (blkHalf blk j))

/-- FMT.RGB5A3 (R230). -/
def decodeRGB5A3 (blk : List Byte) : List (Option Rgba) := (List.range 16).map fun j => some (rgb5a3Pixel (blkHalf blk j))

/-- FMT.RGBA32 (R232): A-R pairs, then G-B pairs (R140). -/
def decodeRGBA32 (blk : List Byte) : List (Option Rgba) :=
  (List.range 16).map fun i =>
    some ⟨blkByte blk (2 * i + 1), blkByte blk (32 + 2 * i), blkByte blk (32 + 2 * i + 1), blkByte blk (2 * i)⟩

/-- FMT.C4 (R240): high nibble first (R134). -/
def decodeC4 (blk : List Byte) (pal : List Rgba) : List (Option Rgba) :=
  (List.range 64).map fun j => palLookup pal (blkNibble blk j).toNat

/-- FMT.C8 (R242). -/
def decodeC8 (blk : List Byte) (pal : List Rgba) : List (Option Rgba) :=
  (List.range 32).map fun j => palLookup pal (blkByte blk j).toNat

/-- FMT.C14X2 (R244): the low 14 bits of the sample (R143). -/
def decodeC14X2 (blk : List Byte) (pal : List Rgba) : List (Option Rgba) :=
  (List.range 16).map fun j => palLookup pal ((blkHalf blk j).extractLsb' 0 14).toNat

/-- A channel by channel blend with alpha 255 (R251). -/
def blendWith (f : Byte → Byte → Byte) (x y : Rgba) : Rgba := ⟨f x.r y.r, f x.g y.g, f x.b y.b, 255⟩

/-- `CmprColours(c0, c1)[sel]` (R251); the comparison is of the raw 16-bit values. -/
def cmprColour (p : Params) (c0 c1 : Half) (sel : BitVec 2) : Rgba :=
  if sel = 0 then rgb565Pixel c0
  else if sel = 1 then rgb565Pixel c1
  else if c1.toNat < c0.toNat then
    if sel = 2 then blendWith (cmprThird p) (rgb565Pixel c0) (rgb565Pixel c1)
    else blendWith (cmprThird p) (rgb565Pixel c1) (rgb565Pixel c0)
  else if sel = 2 then blendWith (cmprHalf p) (rgb565Pixel c0) (rgb565Pixel c1)
  else transparent

/-- The index word of CMPR sub-block `s`: `MemRead(BLK, 8s + 4, 4)` (R141). -/
def cmprIndexWord (blk : List Byte) (s : Nat) : Word :=
  blkByte blk (8 * s + 4) ++ blkByte blk (8 * s + 5) ++ blkByte blk (8 * s + 6) ++ blkByte blk (8 * s + 7)

/-- Pixel `i` of CMPR sub-block `s` (R250): index `i` is bits `[31 - 2i : 30 - 2i]` of the index word. -/
def cmprPixel (p : Params) (blk : List Byte) (s i : Nat) : Rgba :=
  cmprColour p (blkHalf blk (4 * s)) (blkHalf blk (4 * s + 1)) ((cmprIndexWord blk s).extractLsb' (30 - 2 * i) 2)

/-- FMT.CMPR (R250): position `(lx, ly)` belongs to sub-block `lx / 4 + 2 (ly / 4)` and is its pixel `lx % 4 + 4 (ly % 4)` (R253). -/
def decodeCMPR (p : Params) (blk : List Byte) : List (Option Rgba) :=
  (List.range 64).map fun j =>
    some (cmprPixel p blk (j % 8 / 4 + 2 * (j / 8 / 4)) (j % 8 % 4 + 4 * (j / 8 % 4)))

/-- `BlockDecode(fmt, BLK, PAL)` (R210): the exhaustive match over the formats. -/
def blockDecode (p : Params) (f : PixFmt) (blk : List Byte) (pal : List Rgba) : List (Option Rgba) :=
  match f with
  | .i4 => decodeI4 blk
  | .i8 => decodeI8 blk
  | .ia4 => decodeIA4 blk
  | .ia8 => decodeIA8 blk
  | .rgb565 => decodeRGB565 blk
  | .rgb5a3 => decodeRGB5A3 blk
  | .rgba32 => decodeRGBA32 blk
  | .c4 => decodeC4 blk pal
  | .c8 => decodeC8 blk pal
  | .c14x2 => decodeC14X2 blk pal
  | .cmpr => decodeCMPR p blk

/-- Run a format's routine on BLK: it reads `BLK[0 .. BBYTES - 1]` (R211), and an indexed format reads PAL. A byte of BLK that no window copy has
written holds no value (10_state R62, R77), so a window shorter than `BBYTES` stops as an absent one does. -/
def runFormat (f : PixFmt) (s : State) : Res State := do
  let blk ← need .blk s.blk
  if blk.length < blockBytes f then faultWith (.noValue .blk)
  else
    let pal ← if isIndexed f then need .pal s.pal else .ok []
    .ok { s with rslt := some (blockDecode s.params f blk pal) }

/-- FMT.I4. -/
def execFmtI4 (s : State) : Host.Outcome State Fault Refusal := settle s (runFormat .i4 s)

/-- FMT.I8. -/
def execFmtI8 (s : State) : Host.Outcome State Fault Refusal := settle s (runFormat .i8 s)

/-- FMT.IA4. -/
def execFmtIA4 (s : State) : Host.Outcome State Fault Refusal := settle s (runFormat .ia4 s)

/-- FMT.IA8. -/
def execFmtIA8 (s : State) : Host.Outcome State Fault Refusal := settle s (runFormat .ia8 s)

/-- FMT.RGB565. -/
def execFmtRGB565 (s : State) : Host.Outcome State Fault Refusal := settle s (runFormat .rgb565 s)

/-- FMT.RGB5A3. -/
def execFmtRGB5A3 (s : State) : Host.Outcome State Fault Refusal := settle s (runFormat .rgb5a3 s)

/-- FMT.RGBA32. -/
def execFmtRGBA32 (s : State) : Host.Outcome State Fault Refusal := settle s (runFormat .rgba32 s)

/-- FMT.C4. -/
def execFmtC4 (s : State) : Host.Outcome State Fault Refusal := settle s (runFormat .c4 s)

/-- FMT.C8. -/
def execFmtC8 (s : State) : Host.Outcome State Fault Refusal := settle s (runFormat .c8 s)

/-- FMT.C14X2. -/
def execFmtC14X2 (s : State) : Host.Outcome State Fault Refusal := settle s (runFormat .c14x2 s)

/-- FMT.CMPR. -/
def execFmtCMPR (s : State) : Host.Outcome State Fault Refusal := settle s (runFormat .cmpr s)

end Sys2Proof.Machine
end

