-- ==== Sys2Proof/Machine/Assembler.lean ====
section
/-! DEFINITION. The image assembler (43_assembler): ASM.START, ASM.BLOCK, and leaving ASM (45_operations R348). -/

namespace Sys2Proof.Machine

/-- When the assembler finishes (R348): the descriptor and the pixel buffer are delivered and completion is next. -/
def finishAsm (d : Dsc) (pb : PixBuf) (s : State) : State :=
  { s with resDsc := some d, resPb := some pb, seq := .complete }

/-- What the assembler does next: one more block, or nothing more when it has finished (R272, R273). -/
def asmNext (finished : Bool) (d : Dsc) (pb : PixBuf) (s : State) : State :=
  if finished then finishAsm d pb s else { s with seq := .loop }

/-- ASM.START (R272): a new transparent buffer and the cursors at 0; an empty image has no block. -/
def asmStartStep (s : State) : Res State := do
  let d ← readDsc s
  let pb := newPixBuf d.width.toNat d.height.toNat
  .ok (asmNext (decide (d.width.toNat = 0 ∨ d.height.toNat = 0)) d pb
    { s with pb := some pb, bX := some 0, bY := some 0, bK := some 0 })

/-- Place one result at image coordinate `(x, y)` (R276): only inside the image, and only a colour. -/
def placeOne (w h x y : Nat) (r : Option Rgba) (pb : PixBuf) : PixBuf :=
  match r with
  | none => pb
  | some c => if x < w ∧ y < h then pixWrite pb x y c else pb

/-- Place the results from the `j`-th on: the `j`-th lies at block-local `(j % bw, j / bw)` (R210, R273). -/
def placeFrom (w h bx oy bw : Nat) : Nat → List (Option Rgba) → PixBuf → PixBuf
  | _, [], pb => pb
  | j, r :: rest, pb => placeFrom w h bx oy bw (j + 1) rest (placeOne w h (bx + j % bw) (oy + j / bw) r pb)

/-- The address of block `k` (R274). -/
def blockAddress (hb imgOff : Word) (k bbytes : Nat) : Nat := hb.toNat + imgOff.toNat + k * bbytes

/-- BX after a block (R273): one block further, and back to 0 at the end of a block row. -/
def nextBX (w bw bx : Nat) : Nat := if w ≤ bx + bw then 0 else bx + bw

/-- BY after a block (R273): one block row further when BX returns to 0. -/
def nextBY (w bw bh bx oy : Nat) : Nat := if w ≤ bx + bw then oy + bh else oy

/-- ASM.BLOCK (R273): the window check (R275), the window into BLK, the format's routine, the placement, and the cursors. BLK "exists only during
one block step" (10_state R62), so it holds no value again at the end. -/
def asmBlockStep (s : State) : Res State := do
  let d ← readDsc s
  let g ← need .geom s.geom
  let wb ← need .wb s.wb
  let hb ← need .hb s.hb
  let bk ← need .bK s.bK
  let a := blockAddress hb d.imgOff bk g.bbytes
  if wb.length < a + g.bbytes then raise .outOfRange .block (a : Int)
  else
    let s1 ← runFormat d.format { s with blk := some ((wb.drop a).take g.bbytes) }
    let rs ← need .rslt s1.rslt
    let bx ← need .bX s.bX
    let oy ← need .bY s.bY
    let pb ← need .pb s.pb
    let pb1 := placeFrom d.width.toNat d.height.toNat bx oy g.bw 0 rs pb
    let oy1 := nextBY d.width.toNat g.bw g.bh bx oy
    .ok (asmNext (decide (d.height.toNat ≤ oy1)) d pb1
      { s1 with
        blk := none
        pb := some pb1
        bK := some (bk + 1)
        bX := some (nextBX d.width.toNat g.bw bx)
        bY := some oy1 })

/-- ASM.START. -/
def execAsmStart (s : State) : Host.Outcome State Fault Refusal := settle s (asmStartStep s)

/-- ASM.BLOCK. -/
def execAsmBlock (s : State) : Host.Outcome State Fault Refusal := settle s (asmBlockStep s)

end Sys2Proof.Machine
end

