-- ==== Sys2Proof/Machine/Header.lean ====
section
/-! DEFINITION. The header parser (40_header): HDR.PARSE, the derived geometry (10_state R53), the region size (43_assembler R285), and leaving HDR
(45_operations R347). -/

namespace Sys2Proof.Machine

/-- The derived geometry of a descriptor (R53, R151). -/
def geometryOf (d : Dsc) : Geom where
  bw := blockWidth d.format
  bh := blockHeight d.format
  bbytes := blockBytes d.format
  nbx := ceilDiv d.width.toNat (blockWidth d.format)
  nby := ceilDiv d.height.toNat (blockHeight d.format)
  nblk := ceilDiv d.width.toNat (blockWidth d.format) * ceilDiv d.height.toNat (blockHeight d.format)

/-- The sum of `base / 4^k` for `k` below the number of levels, each quotient rounded down (R285). -/
def levelSum (base : Nat) : Nat → Nat
  | 0 => 0
  | l + 1 => levelSum base l + base / 4 ^ l

/-- `RES_REGION` (R285): the byte size of the whole image region, mipmaps included. -/
def regionSize (p : Params) (d : Dsc) : Nat := levelSum ((geometryOf d).nblk * (geometryOf d).bbytes) (mipLevels p d.mipCount)

/-- What HDR.PARSE writes when it raises nothing (R151): the whole descriptor, the geometry and DSC_VALID. -/
def loadDsc (d : Dsc) (s : State) : State := { s with dsc := some d, geom := some (geometryOf d), dscValid := true }

/-- Leaving HDR (R347): RES_REGION is computed; PARSE_HEADER delivers the descriptor and completes, DECODE goes on to the palette. -/
def leaveHdr (d : Dsc) (s : State) : Res State := do
  let op ← need .op s.op
  match op with
  | .parseHeader => .ok { s with resRegion := some (regionSize s.params d), resDsc := some d, seq := .complete }
  | .decode => .ok (enterPhase .pal { s with resRegion := some (regionSize s.params d) })
  | .decompress => faultWith .phaseOrder

/-- HDR.PARSE (R151): the window check first, then the format code, then the palette-format code (R157); no other field is validated (R158). -/
def hdrParseStep (s : State) : Res State := do
  let wb ← need .wb s.wb
  let hb ← need .hb s.hb
  if wb.length < hb.toNat + 0x20 then raise .outOfRange .header (hb.toNat : Int)
  else
    match decodeHeader s.params ((wb.drop hb.toNat).take 0x20) with
    | .badFormat raw => raise .unknownFormat .header (raw.toNat : Int)
    | .badPalFormat raw => raise .unknownPaletteFormat .header (raw.toNat : Int)
    | .ok d => leaveHdr d (loadDsc d s)

/-- HDR.PARSE. -/
def execHdrParse (s : State) : Host.Outcome State Fault Refusal := settle s (hdrParseStep s)

end Sys2Proof.Machine
end

