-- ==== Sys2Proof/Machine/Lz.lean ====
section
/-! DEFINITION. The LZ unit (44_lz_stream): LZ.DETECT with LZ.INIT, LZ.CTRL, and the three tokens with their copy, overrun and back-reference
rules. The bytes of a token are read by the sequencer (Machine/Sequencer.lean), which raises LzTruncated (R312). -/

namespace Sys2Proof.Machine

/-- The input begins with LZ_MAGIC; one shorter than 4 bytes does not (R301). -/
def isTagged (p : Params) (inp : List Byte) : Bool := decide (inp.take 4 = magicBytes p.lzMagic)

/-- LZ.INIT (R305): FLAGS takes a free value. -/
def lzInit (size : Nat) (s : State) : State :=
  { s with
    dsize := some (BitVec.ofNat 32 size)
    ip := some 0x10
    out := some []
    nbits := some 0
    flags := some (Config.freeFlags s.freeCount)
    freeCount := s.freeCount + 1
    seq := .loop }

/-- LZ.DETECT (R301 to R305): untagged input passes through unchanged; otherwise DSIZE is read and LZ.INIT runs. -/
def lzDetectStep (s : State) : Res State := do
  let inp ← need .inp s.inp
  if isTagged s.params inp then
    match memRead inp 4 4 with
    | some size => .ok (lzInit size s)
    | none => raise .outOfRange .decompress 4
  else leaveLz inp s

/-- LZ.CTRL (R310): FLAGS takes the byte, NBITS becomes 8, IP passes it. -/
def lzCtrlStep (f : Byte) (s : State) : Res State := do
  let ip ← need .ip s.ip
  .ok { s with flags := some f, nbits := some loadedBits, ip := some (ip + 1) }

/-- After each token (R323). -/
def afterToken (s : State) : Res State := do
  let flags ← need .flags s.flags
  let nbits ← need .nbits s.nbits
  .ok { s with flags := some (shiftFlags flags), nbits := some (countBits nbits) }

/-- LZ.LIT (R311), with R323. -/
def lzLitStep (b : Byte) (s : State) : Res State := do
  let ip ← need .ip s.ip
  let out ← need .out s.out
  afterToken { s with ip := some (ip + 1), out := some (outPush out b) }

/-- `Overrun(n)` (R322). -/
def overrun (mode : Overrun) (outLen dsize n : Nat) : Res Nat :=
  if outLen + n ≤ dsize then .ok n
  else match mode with
    | .fault => raise .lzOverrun .decompress ((outLen + n : Nat) : Int)
    | .truncate => .ok (dsize - outLen)
    | .extend => .ok n

/-- The copy loop (R315, R321): one byte at a time; each byte is read after every earlier one of the same copy has been appended. -/
def copyBytes : Nat → Nat → List Byte → List Byte
  | 0, _, out => out
  | n + 1, src, out => copyBytes n (src + 1) (outPush out (out.getD src 0))

/-- A back-reference of `bytes` token bytes, distance `d` and length `n` (RefToken, R315), with R323. LzBackref comes before LzOverrun (R381), and
DSIZE is read only for the latter. -/
def lzRefStep (bytes d n : Nat) (s : State) : Res State := do
  let ip ← need .ip s.ip
  let out ← need .out s.out
  if sourceIndex out.length d < 0 then raise .lzBackref .decompress (sourceIndex out.length d)
  else
    let dsize ← need .dsize s.dsize
    let m ← overrun s.params.lzOverrun out.length dsize.toNat n
    let src := out.length - (d + 1)
    afterToken { s with
      ip := some (ip + bytes)
      out := some (copyBytes m src out)
      src := some ((src + m : Nat) : Int)
      cnt := some 0 }

/-- LZ.CTRL. -/
def execLzCtrl (f : Byte) (s : State) : Host.Outcome State Fault Refusal := settle s (lzCtrlStep f s)

/-- LZ.LIT. -/
def execLzLit (b : Byte) (s : State) : Host.Outcome State Fault Refusal := settle s (lzLitStep b s)

/-- LZ.REFS (R315): two bytes, length `N + 2`. -/
def execLzRefs (n : BitVec 4) (d : BitVec 12) (s : State) : Host.Outcome State Fault Refusal :=
  settle s (lzRefStep 2 d.toNat (shortLength n) s)

/-- LZ.REFL (R316): three bytes, length `byte3 + 0x12`. -/
def execLzRefl (d : BitVec 12) (m : Byte) (s : State) : Host.Outcome State Fault Refusal :=
  settle s (lzRefStep 3 d.toNat (longLength m) s)

/-- LZ.DETECT. -/
def execLzDetect (s : State) : Host.Outcome State Fault Refusal := settle s (lzDetectStep s)

end Sys2Proof.Machine
end

