-- ==== Sys2Proof/Machine/Operations.lean ====
section
/-! DEFINITION. The host operations (45_operations): each is Start (R341); the phases of R345 then run it step by step, which is what the
pseudocode of R350, R352 and R354 computes. The host's side: what it reads of STATUS and the result registers (70_reset R430). -/

namespace Sys2Proof.Machine

/-- OP.DECOMPRESS (R350): PHASE becomes LZ. -/
def execOpDecompress (inp : List Byte) (hb : Word) (s : State) : Host.Outcome State Fault Refusal :=
  startWhenFree s (start .decompress inp hb s)

/-- OP.PARSE_HEADER (R352): PHASE becomes HDR, and the work buffer is the input as given ("no decompression"). -/
def execOpParseHeader (inp : List Byte) (hb : Word) (s : State) : Host.Outcome State Fault Refusal :=
  startWhenFree s { start .parseHeader inp hb s with wb := some inp }

/-- OP.DECODE (R354): PHASE becomes LZ. -/
def execOpDecode (inp : List Byte) (hb : Word) (s : State) : Host.Outcome State Fault Refusal :=
  startWhenFree s (start .decode inp hb s)

/-- The host reads STATUS at any time (R430): STATE, ERR_STAGE and ERR_CODE as numbers (R35, R371). -/
def hostStatus (s : State) : BitVec 2 × BitVec 3 × BitVec 4 :=
  (stateCode s.status.state, stageCode s.status.errStage, errorCode s.status.errCode)

/-- The host reads ERR_ADDR, which holds no value unless an error was raised (R35, R77). -/
def hostErrAddr (s : State) : Except Fault Int :=
  match s.status.errAddr with
  | some a => .ok a
  | none => .error (.noValue .errAddr)

/-- The host reads a result register: only while STATE = DONE does it hold a value; any other read faults (R430, U15). -/
def hostResult {α : Type} (r : Reg) (v : Option α) (s : State) : Except Fault α :=
  if s.status.state = .done then
    match v with
    | some a => .ok a
    | none => .error (.noValue r)
  else .error (.noValue r)

/-- The host reads RES_BYTES (R70). -/
def hostResBytes (s : State) : Except Fault (List Byte) := hostResult .resBytes s.resBytes s

/-- The host reads RES_DSC (R70). -/
def hostResDsc (s : State) : Except Fault Dsc := hostResult .resDsc s.resDsc s

/-- The host reads RES_PB (R70). -/
def hostResPb (s : State) : Except Fault PixBuf := hostResult .resPb s.resPb s

/-- The host reads RES_REGION (R70). -/
def hostResRegion (s : State) : Except Fault Nat := hostResult .resRegion s.resRegion s

end Sys2Proof.Machine
end

