-- ==== Sys2Proof/Machine/Dispatch.lean ====
section
/-! DEFINITION. exec: the meaning of each instruction of spec/opcode_table.json, one arm for each constructor of Instr. -/

namespace Sys2Proof.Machine

def exec (i : Instr) (s : State) : Host.Outcome State Fault Refusal :=
  match i with
  | .lzCtrl f => Sys2Proof.Machine.execLzCtrl f s
  | .lzLit b => Sys2Proof.Machine.execLzLit b s
  | .lzRefs n d => Sys2Proof.Machine.execLzRefs n d s
  | .lzRefl d m => Sys2Proof.Machine.execLzRefl d m s
  | .fmtI4 => Sys2Proof.Machine.execFmtI4 s
  | .fmtI8 => Sys2Proof.Machine.execFmtI8 s
  | .fmtIA4 => Sys2Proof.Machine.execFmtIA4 s
  | .fmtIA8 => Sys2Proof.Machine.execFmtIA8 s
  | .fmtRGB565 => Sys2Proof.Machine.execFmtRGB565 s
  | .fmtRGB5A3 => Sys2Proof.Machine.execFmtRGB5A3 s
  | .fmtRGBA32 => Sys2Proof.Machine.execFmtRGBA32 s
  | .fmtC4 => Sys2Proof.Machine.execFmtC4 s
  | .fmtC8 => Sys2Proof.Machine.execFmtC8 s
  | .fmtC14X2 => Sys2Proof.Machine.execFmtC14X2 s
  | .fmtCMPR => Sys2Proof.Machine.execFmtCMPR s
  | .palfmtIA8 e => Sys2Proof.Machine.execPalfmtIA8 e s
  | .palfmtRGB565 e => Sys2Proof.Machine.execPalfmtRGB565 e s
  | .palfmtRGB5A3 e => Sys2Proof.Machine.execPalfmtRGB5A3 e s
  | .opDecompress inp hb => Sys2Proof.Machine.execOpDecompress inp hb s
  | .opParseHeader inp hb => Sys2Proof.Machine.execOpParseHeader inp hb s
  | .opDecode inp hb => Sys2Proof.Machine.execOpDecode inp hb s
  | .lzDetect => Sys2Proof.Machine.execLzDetect s
  | .hdrParse => Sys2Proof.Machine.execHdrParse s
  | .palDecode => Sys2Proof.Machine.execPalDecode s
  | .asmStart => Sys2Proof.Machine.execAsmStart s
  | .asmBlock => Sys2Proof.Machine.execAsmBlock s

end Sys2Proof.Machine
end

