-- ==== Sys2Proof/Machine/Sequencer.lean ====
section
/-! DEFINITION. The sequencer: what the engine does next (45_operations R345 to R349, 70_reset R411, R425), with the reading of control bytes and
tokens (44_lz_stream R306, R307, R312), and how an instruction word is placed where the next step reads it. -/

namespace Sys2Proof.Machine

/-- What one step is to do (R425). -/
inductive Todo where
  /-- no step is enabled: the engine waits for the host (R391, R411) -/
  | wait
  /-- a request whose code starts no operation (R341, R124); `rest` are the requests after it -/
  | drop (rest : List Request)
  /-- a request that starts an operation -/
  | request (i : Instr) (rest : List Request)
  /-- completion (R349) -/
  | complete
  /-- |OUT| has reached DSIZE (R325) -/
  | lzFinish (out : List Byte)
  /-- one instruction -/
  | one (i : Instr)
  /-- one LZ.STEP that first loads a control byte (R306) -/
  | two (c i : Instr)
  deriving DecidableEq, Repr

/-- LzTruncated (R307, R312): the address is the index of the missing byte, IP as it stands when no byte is left. -/
def lzTruncated {α : Type} (ip inLen : Nat) : Res α := raise .lzTruncated .decompress ((max ip inLen : Nat) : Int)

/-- The token at `ip`, its kind given by the control bit. -/
def fetchToken (p : Params) (lit : Bool) (inp : List Byte) (ip : Nat) : Res Instr :=
  match decode p (.token lit) (inp.drop ip) with
  | some (i, _) => .ok i
  | none => lzTruncated ip inp.length

/-- LZ.STEP (R306): finish, or read the control byte if none is left and then the token. -/
def fetchLz (s : State) : Res Todo := do
  let out ← need .out s.out
  let dsize ← need .dsize s.dsize
  if dsize.toNat ≤ out.length then .ok (.lzFinish out)
  else
    let inp ← need .inp s.inp
    let ip ← need .ip s.ip
    let nbits ← need .nbits s.nbits
    if nbits = 0 then
      match decode s.params .control (inp.drop ip) with
      | some (.lzCtrl f, _) => do
        let i ← fetchToken s.params (controlBit f) inp (ip + 1)
        .ok (.two (.lzCtrl f) i)
      | _ => lzTruncated ip inp.length
    else
      let flags ← need .flags s.flags
      let i ← fetchToken s.params (controlBit flags) inp ip
      .ok (.one i)

/-- The host's next request (R341): taken only outside an operation. -/
def fetchRequest (s : State) : Res Todo :=
  match s.requests with
  | [] => .ok .wait
  | r :: rest =>
    match decode s.params (.request r) [] with
    | some (i, _) => .ok (.request i rest)
    | none => .ok (.drop rest)

/-- The unit step of a phase (R345). -/
def fetchUnit (s : State) : Res Todo :=
  match decode s.params (.sequencer s.phase s.seq) [] with
  | some (i, _) => .ok (.one i)
  | none => faultWith .phaseOrder

/-- What the next step does. -/
def fetch (s : State) : Res Todo :=
  match s.phase, s.seq with
  | .idle, _ => fetchRequest s
  | .done, _ => fetchRequest s
  | .error, _ => fetchRequest s
  | _, .complete => .ok .complete
  | .lz, .loop => fetchLz s
  | _, _ => fetchUnit s

/-- Run two instructions as one step: an error in the second leaves no effect of the first (R380). -/
def execTwo (c i : Instr) (s : State) : Host.Outcome State Fault Refusal :=
  match exec c s with
  | .next s1 =>
    match exec i s1 with
    | .next t => .next (if t.phase = .error then abortTo s t else t)
    | .fault f => .fault f
    | .refused r => .refused r
  | .fault f => .fault f
  | .refused r => .refused r

/-- Do it. -/
def perform (todo : Todo) (s : State) : Host.Outcome State Fault Refusal :=
  match todo with
  | .wait => .next s
  | .drop rest => .next { s with requests := rest }
  | .request i rest => exec i { s with requests := rest }
  | .complete => .next (completeOp s)
  | .lzFinish out => settle s (leaveLz out s)
  | .one i => exec i s
  | .two c i => execTwo c i s

/-- One step of the machine (R425). -/
def advance (s : State) : Host.Outcome State Fault Refusal :=
  match fetch s with
  | .ok todo => perform todo s
  | .error e => settle s (.error e)

/-- `s` in an operation, with nothing wrong so far. -/
def inOperation (op : OpCode) (ph : Phase) (sq : Seq) (s : State) : State :=
  { s with op := some op, phase := ph, seq := sq, status := ⟨.busy, .none, .none, none⟩ }

/-- `s` inside the LZ loop with these payload bytes next, `hist` bytes of output before them, and this many control bits of value 0. -/
def placeLz (bs : List Byte) (hist nbits : Nat) (s : State) : State :=
  { inOperation .decompress .lz .loop s with
    inp := some (List.replicate 16 0 ++ bs)
    ip := some 16
    out := some (List.replicate hist 0)
    dsize := some 0xFFFFFFFF
    flags := some 0
    nbits := some nbits }

/-- The 32 header bytes of a one-block image of this format code, its block right after the header. -/
def oneBlockHeader (f : PixFmt) (code : Byte) : List Byte :=
  [code, 0, 0, BitVec.ofNat 8 (blockWidth f), 0, BitVec.ofNat 8 (blockHeight f)] ++ List.replicate 24 0 ++ [0, 0x20]

/-- `s` before the one block of such an image: the code byte stands in WB and has been parsed into DSC. -/
def placeFormat (f : PixFmt) (code : Byte) (s : State) : State :=
  let h := oneBlockHeader f code
  match decodeHeader s.params h with
  | .ok d =>
    { loadDsc d (inOperation .decode .asm .loop s) with
      hb := some 0
      wb := some (h ++ List.replicate (blockBytes f) 0)
      pal := some []
      bX := some 0
      bY := some 0
      bK := some 0
      pb := some (newPixBuf (blockWidth f) (blockHeight f)) }
  | .badFormat _ => s
  | .badPalFormat _ => s

/-- The distance of a back-reference; other instructions have none. -/
def distanceNeeded : Instr → Nat
  | .lzRefs _ d => d.toNat + 1
  | .lzRefl d _ => d.toNat + 1
  | _ => 1

/-- Place the word that `decodeTableWord nbits w` reads where the next step reads it: what withFetchWord is. notes/assumptions/15.md. -/
def placeWord (s : State) (nbits w : Nat) : State :=
  let hist := match decodeTableWord nbits w with
    | some i => distanceNeeded i
    | none => 1
  if nbits = 8 then
    match fmtOfCode s.params (BitVec.ofNat 8 w) with
    | some f => placeFormat f (BitVec.ofNat 8 w) s
    | none => placeLz (beBytes 1 w ++ [0, 0, 0]) hist 0 s
  else if nbits = 16 then placeLz (beBytes 2 w ++ [0]) hist 1 s
  else if nbits = 24 then placeLz (beBytes 3 w) hist 1 s
  else if nbits = 32 then { inOperation .decompress .lz .first s with inp := some (beBytes 4 w ++ List.replicate 12 0) }
  else if nbits = 256 then
    { inOperation .parseHeader .hdr .first s with inp := some (beBytes 32 w), wb := some (beBytes 32 w), hb := some 0 }
  else s

end Sys2Proof.Machine
end

