-- ==== Sys2Proof/Machine/Step.lean ====
section
/-! DEFINITION. step, and withFetchWord, which the host's questions use; both only call Machine/Sequencer.lean. -/

namespace Sys2Proof.Machine

/-- One step of the TDE (70_reset R425). -/
def step (s : State) : Host.Outcome State Fault Refusal := advance s

/-- `s` with the instruction of a table row's bits `w` placed where the next step reads it. -/
def State.withFetchWord (s : State) (nbits w : Nat) : State := placeWord s nbits w

end Sys2Proof.Machine
end

