-- ==== Sys2Proof/Safety.lean ====
section
/-! DEFINITION. What counts as a safe run, in the terms the statements use: the invariant of the machine, the engine's response, the progress order,
and the image an assembler run is to produce. -/

namespace Sys2Proof.Machine

/-- STATE as PHASE determines it (10_state R33, R35; 45_operations R341, R349; 60_exceptions R380). -/
def stateOf : Phase → EngState
  | .idle => .idle
  | .lz | .hdr | .pal | .asm => .busy
  | .done => .done
  | .error => .error

/-- The pairs of ERR_CODE and ERR_STAGE that 60_exceptions R371 lists. -/
def legalError : ErrCode → Stage → Bool
  | .outOfRange, .decompress | .outOfRange, .header | .outOfRange, .palette | .outOfRange, .block => true
  | .unknownFormat, .header | .unknownPaletteFormat, .header => true
  | .lzBackref, .decompress | .lzTruncated, .decompress | .lzOverrun, .decompress => true
  | _, _ => false

/-- Every result register holds no value (R70, R380). -/
def noResults (s : State) : Prop := s.resBytes = none ∧ s.resDsc = none ∧ s.resPb = none ∧ s.resRegion = none

/-- STATUS agrees with PHASE; outside ERROR it names no error, in ERROR a listed one with its address; an error delivers no result (R35, R370,
R371, R380). -/
def StatusWf (s : State) : Prop :=
  s.status.state = stateOf s.phase ∧
  (s.phase ≠ .error → s.status.errStage = .none ∧ s.status.errCode = .none ∧ s.status.errAddr = none) ∧
  (s.phase = .error → legalError s.status.errCode s.status.errStage = true ∧ s.status.errAddr.isSome = true ∧ noResults s)

/-- The descriptor is loaded and the geometry is that of the descriptor (R52, R53). -/
def DscLoaded (s : State) (d : Dsc) : Prop := s.dscValid = true ∧ s.dsc = some d ∧ s.geom = some (geometryOf d)

/-- The cursors before block `BK` of the walk (43_assembler R273, R277, R278): BK counts blocks in raster order, (BX, BY) is the block's origin,
and the buffer has the image's size. -/
def WalkAt (s : State) (d : Dsc) (k : Nat) : Prop :=
  s.bK = some k ∧ k < (geometryOf d).nblk ∧
  s.bX = some (k % (geometryOf d).nbx * (geometryOf d).bw) ∧ s.bY = some (k / (geometryOf d).nbx * (geometryOf d).bh) ∧
  ∃ pb, s.pb = some pb ∧ pb.width = d.width.toNat ∧ pb.height = d.height.toNat

/-- What holds before the next step of each phase: the registers it reads hold values (R77: "No rule of this spec reads such a register before
writing it"), and the phase is one the operation has (45_operations R345). In DONE the operation's result registers hold values (R70). -/
def Ready (s : State) : Prop :=
  match s.phase, s.seq with
  | .idle, _ | .error, _ => True
  | .done, _ =>
    match s.op with
    | some .decompress => s.resBytes.isSome = true
    | some .parseHeader => s.resDsc.isSome = true ∧ s.resRegion.isSome = true
    | some .decode => s.resDsc.isSome = true ∧ s.resPb.isSome = true ∧ s.resRegion.isSome = true
    | none => False
  | .lz, .first => (s.op = some .decompress ∨ s.op = some .decode) ∧ s.hb.isSome = true ∧ s.inp.isSome = true
  | .lz, .loop =>
    (s.op = some .decompress ∨ s.op = some .decode) ∧ s.hb.isSome = true ∧ s.inp.isSome = true ∧ s.ip.isSome = true ∧
    s.out.isSome = true ∧ s.dsize.isSome = true ∧ s.flags.isSome = true ∧ ∃ n, s.nbits = some n ∧ n ≤ 8
  | .lz, .complete => s.op = some .decompress ∧ s.resBytes.isSome = true
  | .hdr, .first => (s.op = some .parseHeader ∨ s.op = some .decode) ∧ s.hb.isSome = true ∧ s.wb.isSome = true
  | .hdr, .loop => False
  | .hdr, .complete => s.op = some .parseHeader ∧ s.resDsc.isSome = true ∧ s.resRegion.isSome = true
  | .pal, .first =>
    s.op = some .decode ∧ s.hb.isSome = true ∧ s.wb.isSome = true ∧ s.resRegion.isSome = true ∧ ∃ d, DscLoaded s d
  | .pal, .loop | .pal, .complete => False
  | .asm, .first =>
    s.op = some .decode ∧ s.hb.isSome = true ∧ s.wb.isSome = true ∧ s.resRegion.isSome = true ∧ s.pal.isSome = true ∧
    ∃ d, DscLoaded s d
  | .asm, .loop =>
    s.op = some .decode ∧ s.hb.isSome = true ∧ s.wb.isSome = true ∧ s.resRegion.isSome = true ∧ s.pal.isSome = true ∧
    ∃ d k, DscLoaded s d ∧ WalkAt s d k
  | .asm, .complete => s.op = some .decode ∧ s.resDsc.isSome = true ∧ s.resPb.isSome = true ∧ s.resRegion.isSome = true

/-- The invariant of the machine. Between two steps BLK holds no value: it "exists only during one block step" (R62). -/
def Inv (s : State) : Prop := StatusWf s ∧ Ready s ∧ Memory.wf s = true ∧ s.blk = none

/-- The engine is inside an operation (R30). -/
def busyPhase : Phase → Bool
  | .lz | .hdr | .pal | .asm => true
  | .idle | .done | .error => false

/-- The response of an operation (R340): STATUS and the result registers. -/
def response (s : State) : Status × Option (List Byte) × Option Dsc × Option PixBuf × Option Nat :=
  (s.status, s.resBytes, s.resDsc, s.resPb, s.resRegion)

/-- Apply a change of state to an outcome. -/
def mapNext (f : State → State) : Host.Outcome State Fault Refusal → Host.Outcome State Fault Refusal
  | .next t => .next (f t)
  | .fault r => .fault r
  | .refused r => .refused r

/-- Instructions one after the other, stopping at the first that does not answer a next state. -/
def execAll : List Instr → State → Host.Outcome State Fault Refusal
  | [], s => .next s
  | i :: rest, s =>
    match exec i s with
    | .next t => execAll rest t
    | .fault f => .fault f
    | .refused r => .refused r

/-- The distance and length of a back-reference (30_encoding R128, R129). -/
def refOperands : Instr → Option (Nat × Nat)
  | .lzRefs n d => some (d.toNat, shortLength n)
  | .lzRefl d m => some (d.toNat, longLength m)
  | _ => none

/-- The phases a step may leave a phase for (45_operations R345): itself, or the next one the operation has, or ERROR. -/
def phaseMayFollow (op : Option OpCode) : Phase → Phase → Bool
  | .lz, .lz | .hdr, .hdr | .asm, .asm => true
  | .lz, .hdr => op = some .decode
  | .lz, .done => op = some .decompress
  | .hdr, .pal => op = some .decode
  | .hdr, .done => op = some .parseHeader
  | .pal, .asm => true
  | .asm, .done => true
  | .lz, .error | .hdr, .error | .pal, .error | .asm, .error => true
  | _, _ => false

/-- What the block covering image cell `(x, y)` decodes to there (43_assembler R280): block `(y / BH) NBX + x / BW`, local position
`(x % BW, y % BH)`; an absent result leaves the cell transparent. -/
def imagePixel (p : Params) (d : Dsc) (hb : Word) (wb : List Byte) (pal : List Rgba) (x y : Nat) : Rgba :=
  let g := geometryOf d
  let a := blockAddress hb d.imgOff (y / g.bh * g.nbx + x / g.bw) g.bbytes
  let rs := blockDecode p d.format ((wb.drop a).take g.bbytes) pal
  match rs[y % g.bh * g.bw + x % g.bw]? with
  | some (some c) => c
  | _ => transparent

/-- The buffer holds the image's pixels in the blocks before block `k` and `(0, 0, 0, 0)` elsewhere (43_assembler R272, R277, R280). -/
def ImageSoFar (p : Params) (d : Dsc) (hb : Word) (wb : List Byte) (pal : List Rgba) (k : Nat) (pb : PixBuf) : Prop :=
  ∀ x y, x < d.width.toNat → y < d.height.toNat →
    pixRead pb x y = some
      (if y / (geometryOf d).bh * (geometryOf d).nbx + x / (geometryOf d).bw < k then imagePixel p d hb wb pal x y else transparent)

end Sys2Proof.Machine
end

