-- ==== Sys2Proof/Certificates/Slice0/Obligations.lean ====
section
/-! DEFINITION. The statements about the TDE, for the provers. Each docstring names the rules of spec/ it formalises. -/

open Sys2Proof Sys2Proof.Machine

/-! ## Encodings -/

/-- 30_encoding R121 to R129: whatever the parameters, decoding the bytes of a well-formed instruction, in the context it is read in, gives it
back with the bytes that follow, so no bit of an operand is dropped; with the default parameters every instruction has an encoding. -/
def Obligations.DecodeOfEncodeIsIdentity : Prop :=
  (∀ (p : Params) (i : Instr) (c : Ctx) (bs rest : List Byte),
    i.wellFormed = true → encode p i = some (c, bs) → decode p c (bs ++ rest) = some (i, rest)) ∧
  (∀ i : Instr, (encode Params.default i).isSome = true)

/-- 30_encoding R130. The control bit and the first byte's high nibble give the token's length; every pair of a distance and a length from 3 to
273 has exactly one encoding, short up to length 17 and long from 18 on; shorter lengths have none. -/
def Obligations.BackReferenceEncodingIsUnique : Prop :=
  (∀ b rest, ∃ i, decodeToken true (b :: rest) = some (i, rest)) ∧
  (∀ b1 b2 rest, b1.toNat / 16 ≠ 0 → ∃ i, decodeToken false (b1 :: b2 :: rest) = some (i, rest)) ∧
  (∀ b1 b2 b3 rest, b1.toNat / 16 = 0 → ∃ i, decodeToken false (b1 :: b2 :: b3 :: rest) = some (i, rest)) ∧
  (∀ d n, d ≤ 4095 → 3 ≤ n → n ≤ 273 → ∃! i : Instr, i.wellFormed = true ∧ refOperands i = some (d, n)) ∧
  (∀ d n, n ≤ 17 → ∀ i : Instr, i.wellFormed = true → refOperands i = some (d, n) → ∃ a b, i = .lzRefs a b) ∧
  (∀ d n, 18 ≤ n → ∀ i : Instr, i.wellFormed = true → refOperands i = some (d, n) → ∃ a b, i = .lzRefl a b) ∧
  (∀ d n, n < 3 → ∀ i : Instr, i.wellFormed = true → refOperands i ≠ some (d, n))

/-- Words written out from 30_encoding R121, R122, R124 and R126 to R129 decode to the instructions they stand for: the control bytes and tokens of
programs P1 and P2 (95_test_vectors 3; the literals that repeat are written once), the code of C14X2, an RGB565 palette entry, the three
requests, and the five unit steps. -/
def Obligations.WrittenOutWordsDecode : Prop :=
  decode Params.default .control [0x80, 0xAB] = some (.lzCtrl 0x80, [0xAB]) ∧
  decode Params.default .control [0xEF, 0x41] = some (.lzCtrl 0xEF, [0x41]) ∧
  decode Params.default (.token true) [0xAB] = some (.lzLit 0xAB, []) ∧
  decode Params.default (.token false) [0x30, 0x00] = some (.lzRefs 3 0, []) ∧
  decode Params.default (.token true) [0x41, 0x42] = some (.lzLit 0x41, [0x42]) ∧
  decode Params.default (.token true) [0x42, 0x43] = some (.lzLit 0x42, [0x43]) ∧
  decode Params.default (.token true) [0x43, 0x00] = some (.lzLit 0x43, [0x00]) ∧
  decode Params.default (.token false) [0x00, 0x02, 0x0E] = some (.lzRefl 2 0x0E, []) ∧
  decode Params.default (.token true) [0x78] = some (.lzLit 0x78, []) ∧
  decode Params.default (.token true) [0x79] = some (.lzLit 0x79, []) ∧
  decode Params.default (.token false) [0x10, 0x00] = some (.lzRefs 1 0, []) ∧
  decode Params.default .pixelFormat [0x0A] = some (.fmtC14X2, []) ∧
  decode Params.default (.paletteEntry 0x01) [0xF8, 0x00] = some (.palfmtRGB565 0xF800, []) ∧
  decode Params.default (.request ⟨1, [1], 4⟩) [] = some (.opDecompress [1] 4, []) ∧
  decode Params.default (.request ⟨2, [1], 4⟩) [] = some (.opParseHeader [1] 4, []) ∧
  decode Params.default (.request ⟨3, [1], 4⟩) [] = some (.opDecode [1] 4, []) ∧
  decode Params.default (.sequencer .lz .first) [] = some (.lzDetect, []) ∧
  decode Params.default (.sequencer .hdr .first) [] = some (.hdrParse, []) ∧
  decode Params.default (.sequencer .pal .first) [] = some (.palDecode, []) ∧
  decode Params.default (.sequencer .asm .first) [] = some (.asmStart, []) ∧
  decode Params.default (.sequencer .asm .loop) [] = some (.asmBlock, [])

/-- 30_encoding R120: reading the 32 header bytes written from a descriptor gives the descriptor back, whatever the parameters that map its codes. -/
def Obligations.HeaderDecodeOfEncodeIsIdentity : Prop :=
  ∀ (p : Params) (d : Dsc), fmtOfCode p d.formatRaw = some d.format → palOfCode p d.palFmtRaw = some d.palFmt →
    (encodeHeader d).length = 0x20 ∧ decodeHeader p (encodeHeader d) = .ok d

/-- 30_encoding R123, with the default tables: which codes are illegal, and that the decoder refuses them. -/
def Obligations.IllegalCodesAreRefused : Prop :=
  (∀ c : Byte, decode Params.default .pixelFormat [c] = none ↔
    c = 0x07 ∨ c = 0x0B ∨ c = 0x0C ∨ c = 0x0D ∨ 0x0F ≤ c.toNat) ∧
  (∀ (c hi lo : Byte), decode Params.default (.paletteEntry c) [hi, lo] = none ↔ 0x03 ≤ c.toNat)

/-! ## The LZ unit -/

/-- 44_lz_stream R310: LZ.CTRL loads FLAGS, sets NBITS to 8, passes the byte, and writes nothing else. -/
def Obligations.ControlByteLoads : Prop :=
  ∀ (f : Byte) (s : State) (ip : Nat), s.ip = some ip →
    exec (.lzCtrl f) s = .next { s with flags := some f, nbits := some 8, ip := some (ip + 1) }

/-- 44_lz_stream R311, R323: LZ.LIT appends its byte, passes it, shifts FLAGS by one and counts NBITS down, and writes nothing else. -/
def Obligations.LiteralAppendsItsByte : Prop :=
  ∀ (b f : Byte) (s : State) (ip n : Nat) (out : List Byte),
    s.ip = some ip → s.out = some out → s.flags = some f → s.nbits = some n →
    exec (.lzLit b) s = .next { s with
      ip := some (ip + 1), out := some (out ++ [b]), flags := some (BitVec.ofNat 8 (2 * f.toNat)), nbits := some (n - 1) }

/-- 44_lz_stream R315, R316, R321, R323: a back-reference that reaches into the output and does not overrun DSIZE passes its 2 or 3 bytes and
appends its length in bytes, each the byte `d + 1` before it, those of the same copy included; the old output stays, and only the LZ registers
named here are written. -/
def Obligations.BackReferenceCopies : Prop :=
  ∀ (s : State) (ip m : Nat) (f : Byte) (n : Nat) (out : List Byte) (size : Word),
    s.ip = some ip → s.out = some out → s.dsize = some size → s.flags = some f → s.nbits = some n → out.length = m →
    ∀ (i : Instr) (bytes d len : Nat),
      (∃ a b, i = .lzRefs a b ∧ bytes = 2 ∧ d = b.toNat ∧ len = a.toNat + 2) ∨
      (∃ b c, i = .lzRefl b c ∧ bytes = 3 ∧ d = b.toNat ∧ len = c.toNat + 0x12) →
      d + 1 ≤ m → m + len ≤ size.toNat →
      ∃ out' : List Byte,
        exec i s = .next { s with
          ip := some (ip + bytes), out := some out', src := some (((m - (d + 1) + len : Nat)) : Int), cnt := some 0,
          flags := some (BitVec.ofNat 8 (2 * f.toNat)), nbits := some (n - 1) } ∧
        out'.length = m + len ∧ (∀ k, k < m → out'[k]? = out[k]?) ∧
        ∀ t, t < len → out'[m + t]? = out'[m - (d + 1) + t]? ∧ out'[m + t]? = out[m - (d + 1) + t % (d + 1)]?

/-- 44_lz_stream R321: the copy loop appends `OUT[m + t] = OUT[s + t]`, so the last `d + 1` bytes repeat with period `d + 1`, and no earlier index
changes. -/
def Obligations.OverlappingCopyIsPeriodic : Prop :=
  ∀ (out : List Byte) (d n : Nat), d + 1 ≤ out.length →
    (copyBytes n (out.length - (d + 1)) out).length = out.length + n ∧
    (∀ k, k < out.length → (copyBytes n (out.length - (d + 1)) out)[k]? = out[k]?) ∧
    (∀ t, t < n → (copyBytes n (out.length - (d + 1)) out)[out.length + t]? =
      (copyBytes n (out.length - (d + 1)) out)[out.length - (d + 1) + t]?) ∧
    (∀ t, t < n → (copyBytes n (out.length - (d + 1)) out)[out.length + t]? = out[out.length - (d + 1) + t % (d + 1)]?)

/-- 44_lz_stream R320: a back-reference to before the first output byte raises LzBackref with the negative index, before any byte is copied and
whatever the overrun rule would say. That the other
registers stay as they are when the error is raised is notes/assumptions/17.md. -/
def Obligations.BackReferenceBeforeStartFails : Prop :=
  ∀ (s : State) (ip : Nat) (out : List Byte), s.ip = some ip → s.out = some out →
    ∀ (i : Instr) (d len : Nat), refOperands i = some (d, len) → out.length < d + 1 →
      exec i s = .next { s with
        status := ⟨.error, .decompress, .lzBackref, some ((out.length : Int) - ((d : Int) + 1))⟩, phase := .error,
        resBytes := none, resDsc := none, resPb := none, resRegion := none }

/-- 44_lz_stream R322 (with R315, R316, R321, R323): where a back-reference would take the output past DSIZE, `Fault` raises LzOverrun, `Truncate`
stops the copy at DSIZE, and `Extend` copies its whole length. The copied bytes are those of the unbounded copy, whose bytes
`OverlappingCopyIsPeriodic` gives; the token's 2 or 3 bytes are passed, and only the LZ registers named here are written. That the other registers
stay as they are when LzOverrun is raised is notes/assumptions/17.md. -/
def Obligations.OverrunFollowsItsParameter : Prop :=
  ∀ (s : State) (ip m n : Nat) (f : Byte) (out : List Byte) (size : Word),
    s.ip = some ip → s.out = some out → s.dsize = some size → s.flags = some f → s.nbits = some n → out.length = m →
    ∀ (i : Instr) (bytes d len : Nat),
      (∃ a b, i = .lzRefs a b ∧ bytes = 2 ∧ d = b.toNat ∧ len = a.toNat + 2) ∨
      (∃ b c, i = .lzRefl b c ∧ bytes = 3 ∧ d = b.toNat ∧ len = c.toNat + 0x12) →
      d + 1 ≤ m → size.toNat < m + len →
      (s.params.lzOverrun = .fault → exec i s = .next { s with
        status := ⟨.error, .decompress, .lzOverrun, some ((m + len : Nat) : Int)⟩, phase := .error,
        resBytes := none, resDsc := none, resPb := none, resRegion := none }) ∧
      (s.params.lzOverrun = .truncate → exec i s = .next { s with
        ip := some (ip + bytes), out := some ((copyBytes len (m - (d + 1)) out).take (m + (size.toNat - m))),
        src := some ((m - (d + 1) + (size.toNat - m) : Nat) : Int), cnt := some 0,
        flags := some (BitVec.ofNat 8 (2 * f.toNat)), nbits := some (n - 1) }) ∧
      (s.params.lzOverrun = .extend → exec i s = .next { s with
        ip := some (ip + bytes), out := some (copyBytes len (m - (d + 1)) out),
        src := some ((m - (d + 1) + len : Nat) : Int), cnt := some 0,
        flags := some (BitVec.ofNat 8 (2 * f.toNat)), nbits := some (n - 1) })

/-- 44_lz_stream R303, R305: a tagged input of at least 8 bytes loads DSIZE from its bytes 4 to 7 and runs LZ.INIT; FLAGS takes some value, of
which nothing is said. With fewer than 8 bytes the size read raises OutOfRange at address 4. That the other
registers stay as they are when the error is raised is notes/assumptions/17.md. -/
def Obligations.TaggedInputStartsDecompression : Prop :=
  ∀ (s : State) (inp : List Byte), s.inp = some inp → inp.take 4 = magicBytes s.params.lzMagic →
    (8 ≤ inp.length → ∃ (f : Byte) (size : Word), size.toNat = beNat ((inp.drop 4).take 4) ∧
      exec .lzDetect s = .next { s with
        dsize := some size, ip := some 0x10, out := some [], nbits := some 0, flags := some f,
        freeCount := s.freeCount + 1, seq := .loop }) ∧
    (inp.length < 8 → exec .lzDetect s = .next { s with
      status := ⟨.error, .decompress, .outOfRange, some 4⟩, phase := .error,
      resBytes := none, resDsc := none, resPb := none, resRegion := none })

/-- 44_lz_stream R302: a DECOMPRESS of untagged input, started while the engine is free, ends after its three steps with STATE = DONE and the
host reads the input back byte for byte; an input of fewer than 4 bytes is untagged (R301). -/
def Obligations.UntaggedInputPassesThrough : Prop :=
  ∀ (s : State) (inp : List Byte) (hb : Word) (rest : List Request), s.requests = ⟨1, inp, hb⟩ :: rest →
    busyPhase s.phase = false → s.status.state ≠ .busy → inp.take 4 ≠ magicBytes s.params.lzMagic →
    ∃ t, Host.Core.run Sys2Proof.core 3 s = .next t ∧ t.status.state = .done ∧ hostResBytes t = .ok inp

/-- 44_lz_stream R307, R312: while a control byte or a byte of a token is needed, reaching the end of IN raises LzTruncated at the missing byte's
index: for the control byte, for the first byte of a token, and for a back-reference's second and third byte, with and without a control byte
read in the same step. That the other
registers stay as they are when the error is raised is notes/assumptions/17.md. -/
def Obligations.MissingPayloadByteIsTruncation : Prop :=
  ∀ (s : State) (inp out : List Byte) (size : Word) (ip n : Nat) (f : Byte), s.phase = .lz → s.seq = .loop →
    s.inp = some inp → s.out = some out → s.dsize = some size → out.length < size.toNat →
    s.ip = some ip → s.nbits = some n → s.flags = some f →
    ∀ addr : Nat,
      (n = 0 ∧ inp.length ≤ ip ∧ addr = ip) ∨
      (n = 0 ∧ inp.length = ip + 1 ∧ addr = ip + 1) ∨
      (n = 0 ∧ inp.length = ip + 2 ∧ (∃ c : Byte, inp[ip]? = some c ∧ c.toNat < 128) ∧ addr = ip + 2) ∨
      (n = 0 ∧ inp.length = ip + 3 ∧ (∃ c b : Byte, inp[ip]? = some c ∧ c.toNat < 128 ∧ inp[ip + 1]? = some b ∧ b.toNat < 16) ∧
        addr = ip + 3) ∨
      (n ≠ 0 ∧ inp.length ≤ ip ∧ addr = ip) ∨
      (n ≠ 0 ∧ f.toNat < 128 ∧ inp.length = ip + 1 ∧ addr = ip + 1) ∨
      (n ≠ 0 ∧ f.toNat < 128 ∧ inp.length = ip + 2 ∧ (∃ b : Byte, inp[ip]? = some b ∧ b.toNat < 16) ∧ addr = ip + 2) →
      step s = .next { s with
        status := ⟨.error, .decompress, .lzTruncated, some (addr : Int)⟩, phase := .error,
        resBytes := none, resDsc := none, resPb := none, resRegion := none }

/-- 45_operations R346: with the LZ result complete, from untagged input or from a finished loop, DECOMPRESS delivers it and completes, DECODE
makes it the work buffer and goes on to the header. That nothing else is written, so that the LZ registers keep their values although 44_lz_stream
R325 calls the LZ state discarded, is the model's reading (notes/assumptions/17.md). -/
def Obligations.LeavingLzDeliversTheResult : Prop :=
  ∀ (s : State) (l : List Byte), s.phase = .lz →
    ((s.seq = .first ∧ s.inp = some l ∧ l.take 4 ≠ magicBytes s.params.lzMagic) ∨
      (s.seq = .loop ∧ s.out = some l ∧ ∃ size, s.dsize = some size ∧ size.toNat ≤ l.length)) →
    (s.op = some .decompress → step s = .next { s with resBytes := some l, seq := .complete }) ∧
    (s.op = some .decode → step s = .next { s with wb := some l, phase := .hdr, seq := .first })

/-! ## Channels, pixels and blocks -/

/-- 42_block_decoder R200 to R204: the four channel expansions as numbers; each takes 0 to 0 and the largest value to 255, is strictly increasing,
and keeps its value in the top bits. -/
def Obligations.ChannelExpansions : Prop :=
  ((∀ v : BitVec 3, (expand3 v).toNat = v.toNat * 32 + v.toNat * 4 + v.toNat / 2 ∧ (expand3 v).toNat / 32 = v.toNat) ∧
    expand3 0 = 0 ∧ expand3 7 = 255 ∧ ∀ u v : BitVec 3, u < v → expand3 u < expand3 v) ∧
  ((∀ v : BitVec 4, (expand4 v).toNat = 17 * v.toNat ∧ (expand4 v).toNat / 16 = v.toNat) ∧
    expand4 0 = 0 ∧ expand4 15 = 255 ∧ ∀ u v : BitVec 4, u < v → expand4 u < expand4 v) ∧
  ((∀ v : BitVec 5, (expand5 v).toNat = v.toNat * 8 + v.toNat / 4 ∧ (expand5 v).toNat / 8 = v.toNat) ∧
    expand5 0 = 0 ∧ expand5 31 = 255 ∧ ∀ u v : BitVec 5, u < v → expand5 u < expand5 v) ∧
  ((∀ v : BitVec 6, (expand6 v).toNat = v.toNat * 4 + v.toNat / 16 ∧ (expand6 v).toNat / 4 = v.toNat) ∧
    expand6 0 = 0 ∧ expand6 63 = 255 ∧ ∀ u v : BitVec 6, u < v → expand6 u < expand6 v)

/-- 42_block_decoder R227, R229, R231: the three 16-bit conversions, with each field as a number taken from the value, and the corner values the
rules list; 41_palette R183: a palette format converts an entry by the conversion of the same name. -/
def Obligations.PixelConversions : Prop :=
  (∀ v : Half, ia8Pixel v = ⟨BitVec.ofNat 8 v.toNat, BitVec.ofNat 8 v.toNat, BitVec.ofNat 8 v.toNat, BitVec.ofNat 8 (v.toNat / 256)⟩) ∧
  (∀ v : Half, rgb565Pixel v = ⟨expand5 (BitVec.ofNat 5 (v.toNat / 2048)), expand6 (BitVec.ofNat 6 (v.toNat / 32)),
    expand5 (BitVec.ofNat 5 v.toNat), 255⟩) ∧
  (∀ v : Half, 32768 ≤ v.toNat → rgb5a3Pixel v = ⟨expand5 (BitVec.ofNat 5 (v.toNat / 1024)), expand5 (BitVec.ofNat 5 (v.toNat / 32)),
    expand5 (BitVec.ofNat 5 v.toNat), 255⟩) ∧
  (∀ v : Half, v.toNat < 32768 → rgb5a3Pixel v = ⟨expand4 (BitVec.ofNat 4 (v.toNat / 256)), expand4 (BitVec.ofNat 4 (v.toNat / 16)),
    expand4 (BitVec.ofNat 4 v.toNat), expand3 (BitVec.ofNat 3 (v.toNat / 4096))⟩) ∧
  ia8Pixel 0x00C0 = ⟨192, 192, 192, 0⟩ ∧ ia8Pixel 0xFF00 = ⟨0, 0, 0, 255⟩ ∧
  rgb565Pixel 0xFFFF = ⟨255, 255, 255, 255⟩ ∧ rgb565Pixel 0x0000 = ⟨0, 0, 0, 255⟩ ∧ rgb565Pixel 0x07E0 = ⟨0, 255, 0, 255⟩ ∧
  rgb565Pixel 0x8410 = ⟨132, 130, 132, 255⟩ ∧ rgb5a3Pixel 0x8000 = ⟨0, 0, 0, 255⟩ ∧ rgb5a3Pixel 0xFFFF = ⟨255, 255, 255, 255⟩ ∧
  rgb5a3Pixel 0x7FFF = ⟨255, 255, 255, 255⟩ ∧ rgb5a3Pixel 0x0000 = ⟨0, 0, 0, 0⟩ ∧ rgb5a3Pixel 0xA95F = ⟨82, 82, 255, 255⟩ ∧
  (∀ e : Half, palConvert .ia8 e = ia8Pixel e ∧ palConvert .rgb565 e = rgb565Pixel e ∧ palConvert .rgb5a3 e = rgb5a3Pixel e)

/-- 10_state R54: block width times block height times bits per pixel is the block's size in bits, with the bits per pixel the rule lists. The block
sizes are those of 30_encoding R121, and NBX and NBY are the least numbers of blocks that cover the image (R53). -/
def Obligations.GeometryTableInvariant : Prop :=
  (∀ f : PixFmt, blockWidth f * blockHeight f * bitsPerPixel f = 8 * blockBytes f) ∧
  ([.i4, .c4, .cmpr].map bitsPerPixel = [4, 4, 4] ∧ [.i8, .ia4, .c8].map bitsPerPixel = [8, 8, 8] ∧
    [.ia8, .rgb565, .rgb5a3, .c14x2].map bitsPerPixel = [16, 16, 16, 16] ∧ bitsPerPixel .rgba32 = 32) ∧
  ([.i4, .i8, .ia4, .ia8, .rgb565, .rgb5a3, .rgba32, .c4, .c8, .c14x2, .cmpr].map (fun f => (blockWidth f, blockHeight f)) =
    [(8, 8), (8, 4), (8, 4), (4, 4), (4, 4), (4, 4), (4, 4), (8, 8), (8, 4), (4, 4), (8, 8)]) ∧
  ∀ d : Dsc, (geometryOf d).bw = blockWidth d.format ∧ (geometryOf d).bh = blockHeight d.format ∧ (geometryOf d).bbytes = blockBytes d.format ∧
    (∀ n, d.width.toNat ≤ n * blockWidth d.format ↔ (geometryOf d).nbx ≤ n) ∧
    (∀ n, d.height.toNat ≤ n * blockHeight d.format ↔ (geometryOf d).nby ≤ n) ∧
    (geometryOf d).nblk = (geometryOf d).nbx * (geometryOf d).nby

/-- 42_block_decoder R220, R222, R224 (30_encoding R134 to R136): FMT.I4, FMT.I8 and FMT.IA4 complete on a whole window and hand over one grey
pixel per sample, in byte order, high nibble first; nothing else is written. -/
def Obligations.IntensityFormatsDecode : Prop :=
  ∀ (s : State) (blk : List Byte), s.blk = some blk → 32 ≤ blk.length →
    (∃ rs, exec .fmtI4 s = .next { s with rslt := some rs } ∧ rs.length = 64 ∧
      ∀ (k : Nat) (b : Byte), k < 32 → blk[k]? = some b →
        rs[2 * k]? = some (some ⟨BitVec.ofNat 8 (b.toNat / 16 * 17), BitVec.ofNat 8 (b.toNat / 16 * 17), BitVec.ofNat 8 (b.toNat / 16 * 17),
          BitVec.ofNat 8 (b.toNat / 16 * 17)⟩) ∧
        rs[2 * k + 1]? = some (some ⟨BitVec.ofNat 8 (b.toNat % 16 * 17), BitVec.ofNat 8 (b.toNat % 16 * 17), BitVec.ofNat 8 (b.toNat % 16 * 17),
          BitVec.ofNat 8 (b.toNat % 16 * 17)⟩)) ∧
    (∃ rs, exec .fmtI8 s = .next { s with rslt := some rs } ∧ rs.length = 32 ∧
      ∀ (j : Nat) (b : Byte), j < 32 → blk[j]? = some b → rs[j]? = some (some ⟨b, b, b, b⟩)) ∧
    (∃ rs, exec .fmtIA4 s = .next { s with rslt := some rs } ∧ rs.length = 32 ∧
      ∀ (j : Nat) (b : Byte), j < 32 → blk[j]? = some b →
        rs[j]? = some (some ⟨BitVec.ofNat 8 (b.toNat % 16 * 17), BitVec.ofNat 8 (b.toNat % 16 * 17), BitVec.ofNat 8 (b.toNat % 16 * 17),
          BitVec.ofNat 8 (b.toNat / 16 * 17)⟩))

/-- 42_block_decoder R226, R228, R230 (30_encoding R137 to R139): FMT.IA8, FMT.RGB565 and FMT.RGB5A3 complete on a whole window and hand over the
16-bit conversion of each sample, high byte first; nothing else is written. -/
def Obligations.SixteenBitFormatsDecode : Prop :=
  ∀ (s : State) (blk : List Byte), s.blk = some blk → 32 ≤ blk.length →
    ∀ (i : Instr) (conv : Half → Rgba),
      (i = .fmtIA8 ∧ conv = ia8Pixel) ∨ (i = .fmtRGB565 ∧ conv = rgb565Pixel) ∨ (i = .fmtRGB5A3 ∧ conv = rgb5a3Pixel) →
      ∃ rs, exec i s = .next { s with rslt := some rs } ∧ rs.length = 16 ∧
        ∀ (j : Nat) (hi lo : Byte), j < 16 → blk[2 * j]? = some hi → blk[2 * j + 1]? = some lo →
          rs[j]? = some (some (conv (BitVec.ofNat 16 (hi.toNat * 256 + lo.toNat))))

/-- 42_block_decoder R232 (30_encoding R140): FMT.RGBA32 completes on a whole 64-byte window, with alpha and red in its first half and green and
blue in its second. -/
def Obligations.Rgba32Decodes : Prop :=
  ∀ (s : State) (blk : List Byte), s.blk = some blk → 64 ≤ blk.length →
    ∃ rs, exec .fmtRGBA32 s = .next { s with rslt := some rs } ∧ rs.length = 16 ∧
      ∀ (i : Nat) (a r g b : Byte), i < 16 → blk[2 * i]? = some a → blk[2 * i + 1]? = some r → blk[32 + 2 * i]? = some g →
        blk[32 + 2 * i + 1]? = some b → rs[i]? = some (some ⟨r, g, b, a⟩)

/-- 42_block_decoder R240, R242, R244, R246, R262: FMT.C4, FMT.C8 and FMT.C14X2 complete on a whole window and a palette; each sample selects its
palette entry, and an index at or past PAL_LEN gives `absent` (`none`). -/
def Obligations.IndexedFormatsLookUp : Prop :=
  ∀ (s : State) (blk : List Byte) (pal : List Rgba), s.blk = some blk → 32 ≤ blk.length → s.pal = some pal →
    (∃ rs, exec .fmtC4 s = .next { s with rslt := some rs } ∧ rs.length = 64 ∧
      ∀ (k : Nat) (b : Byte), k < 32 → blk[k]? = some b →
        rs[2 * k]? = some (if h : b.toNat / 16 < pal.length then some pal[b.toNat / 16] else none) ∧
        rs[2 * k + 1]? = some (if h : b.toNat % 16 < pal.length then some pal[b.toNat % 16] else none)) ∧
    (∃ rs, exec .fmtC8 s = .next { s with rslt := some rs } ∧ rs.length = 32 ∧
      ∀ (j : Nat) (b : Byte), j < 32 → blk[j]? = some b →
        rs[j]? = some (if h : b.toNat < pal.length then some pal[b.toNat] else none)) ∧
    (∃ rs, exec .fmtC14X2 s = .next { s with rslt := some rs } ∧ rs.length = 16 ∧
      ∀ (j : Nat) (hi lo : Byte), j < 16 → blk[2 * j]? = some hi → blk[2 * j + 1]? = some lo →
        rs[j]? = some (if h : (hi.toNat * 256 + lo.toNat) % 16384 < pal.length then
          some pal[(hi.toNat * 256 + lo.toNat) % 16384] else none))

/-- 42_block_decoder R250, R253 (30_encoding R141): FMT.CMPR completes on a whole window; pixel `i` of sub-block `q` is the colour its 2-bit index
selects and lies at block-local `(sx + i % 4, sy + i / 4)`. -/
def Obligations.CmprDecodes : Prop :=
  ∀ (s : State) (blk : List Byte), s.blk = some blk → 32 ≤ blk.length →
    ∃ rs, exec .fmtCMPR s = .next { s with rslt := some rs } ∧ rs.length = 64 ∧
      ∀ (q i sx sy c0 c1 idx : Nat), i < 16 →
        (q = 0 ∧ sx = 0 ∧ sy = 0) ∨ (q = 1 ∧ sx = 4 ∧ sy = 0) ∨ (q = 2 ∧ sx = 0 ∧ sy = 4) ∨ (q = 3 ∧ sx = 4 ∧ sy = 4) →
        memRead blk (8 * q) 2 = some c0 → memRead blk (8 * q + 2) 2 = some c1 → memRead blk (8 * q + 4) 4 = some idx →
        rs[(sy + i / 4) * 8 + (sx + i % 4)]? =
          some (some (cmprColour s.params (BitVec.ofNat 16 c0) (BitVec.ofNat 16 c1) (BitVec.ofNat 2 (idx / 4 ^ (15 - i)))))

/-- 42_block_decoder R251: the four colours of a sub-block, for whatever functions the parameters give. -/
def Obligations.CmprColourRule : Prop :=
  ∀ (p : Params) (c0 c1 : Half),
    cmprColour p c0 c1 0 = rgb565Pixel c0 ∧ cmprColour p c0 c1 1 = rgb565Pixel c1 ∧
    (c1.toNat < c0.toNat →
      cmprColour p c0 c1 2 = ⟨cmprThird p (rgb565Pixel c0).r (rgb565Pixel c1).r, cmprThird p (rgb565Pixel c0).g (rgb565Pixel c1).g,
        cmprThird p (rgb565Pixel c0).b (rgb565Pixel c1).b, 255⟩ ∧
      cmprColour p c0 c1 3 = ⟨cmprThird p (rgb565Pixel c1).r (rgb565Pixel c0).r, cmprThird p (rgb565Pixel c1).g (rgb565Pixel c0).g,
        cmprThird p (rgb565Pixel c1).b (rgb565Pixel c0).b, 255⟩) ∧
    (c0.toNat ≤ c1.toNat →
      cmprColour p c0 c1 2 = ⟨cmprHalf p (rgb565Pixel c0).r (rgb565Pixel c1).r, cmprHalf p (rgb565Pixel c0).g (rgb565Pixel c1).g,
        cmprHalf p (rgb565Pixel c0).b (rgb565Pixel c1).b, 255⟩ ∧
      cmprColour p c0 c1 3 = ⟨0, 0, 0, 0⟩) ∧
    (rgb565Pixel c0).a = 255 ∧ (rgb565Pixel c1).a = 255 ∧
    (∀ a b : Byte, (cmprThird Params.default a b).toNat = (2 * a.toNat + b.toNat) / 3 ∧
      (cmprHalf Params.default a b).toNat = (a.toNat + b.toNat) / 2)

/-- 42_block_decoder R263, R262, R205: every routine returns `BW * BH` results, and only the indexed formats ever give `absent`. -/
def Obligations.OnlyIndexedFormatsGiveAbsent : Prop :=
  ∀ (p : Params) (f : PixFmt) (blk : List Byte) (pal : List Rgba),
    (blockDecode p f blk pal).length = blockWidth f * blockHeight f ∧
    (isIndexed f = false → ∀ r ∈ blockDecode p f blk pal, r ≠ none)

/-! ## The palette -/

/-- 41_palette R183, R184: each PALFMT instruction converts its entry by the conversion of the same-named pixel format and adds it as the next
palette entry; nothing else is written. That the instruction carries its entry and appends the colour is the model's reading
(notes/assumptions/14.md): in a run PAL.DECODE converts the whole palette in one step. -/
def Obligations.PaletteFormatsConvertOneEntry : Prop :=
  ∀ (s : State) (pal : List Rgba) (e : Half), s.pal = some pal →
    exec (.palfmtIA8 e) s = .next { s with pal := some (pal ++ [ia8Pixel e]) } ∧
    exec (.palfmtRGB565 e) s = .next { s with pal := some (pal ++ [rgb565Pixel e]) } ∧
    exec (.palfmtRGB5A3 e) s = .next { s with pal := some (pal ++ [rgb5a3Pixel e]) }

/-- 41_palette R180: for a format that is not indexed, PAL.DECODE leaves an empty palette and reads nothing: no palette field, no byte of WB, so no
error can arise; the assembler is next. -/
def Obligations.PaletteIsEmptyForDirectFormats : Prop :=
  ∀ (s : State) (d : Dsc), s.dscValid = true → s.dsc = some d → isIndexed d.format = false →
    exec .palDecode s = .next { s with pal := some [], phase := .asm, seq := .first }

/-- 41_palette R181, R182, R184: for an indexed format whose palette lies in WB, PAL.DECODE leaves COLOR_COUNT entries, entry `i` converted from the
big-endian value at `HB + PAL_OFF + 2i`; with COLOR_COUNT = 0 the palette is empty, whatever PAL_OFF is, and WB is not read. Nothing but the
palette is written, and the assembler is next. -/
def Obligations.PaletteDecodesEveryEntry : Prop :=
  ∀ (s : State) (d : Dsc) (hb : Word), s.dscValid = true → s.dsc = some d → isIndexed d.format = true → s.hb = some hb →
    (d.colorCount.toNat = 0 → exec .palDecode s = .next { s with pal := some [], phase := .asm, seq := .first }) ∧
    (∀ wb : List Byte, s.wb = some wb → hb.toNat + d.palOff.toNat + 2 * d.colorCount.toNat ≤ wb.length →
      ∃ pal, exec .palDecode s = .next { s with pal := some pal, phase := .asm, seq := .first } ∧
        pal.length = d.colorCount.toNat ∧
        ∀ i e, i < d.colorCount.toNat → memRead wb (hb.toNat + d.palOff.toNat + 2 * i) 2 = some e →
          pal[i]? = some (palConvert d.palFmt (BitVec.ofNat 16 e)))

/-- 41_palette R182: a palette that does not fit in WB raises OutOfRange in stage PALETTE at the region's start, and no entry is kept. That the other
registers stay as they are when the error is raised is notes/assumptions/17.md. -/
def Obligations.PaletteOutOfRange : Prop :=
  ∀ (s : State) (d : Dsc) (wb : List Byte) (hb : Word), s.dscValid = true → s.dsc = some d → isIndexed d.format = true →
    s.wb = some wb → s.hb = some hb → 0 < d.colorCount.toNat →
    wb.length < hb.toNat + d.palOff.toNat + 2 * d.colorCount.toNat →
    exec .palDecode s = .next { s with
      status := ⟨.error, .palette, .outOfRange, some ((hb.toNat + d.palOff.toNat : Nat) : Int)⟩, phase := .error,
      resBytes := none, resDsc := none, resPb := none, resRegion := none }

/-- 41_palette R184: running a palette format's instruction on one entry after another adds the converted entries in that order. That the
instruction appends its colour is the model's reading (notes/assumptions/14.md), and no step of a run is such a sequence: there PAL.DECODE
converts the whole palette (`PaletteDecodesEveryEntry`). -/
def Obligations.PaletteEntriesKeepTheirOrder : Prop :=
  ∀ (f : PalFmt) (es : List Half) (s : State) (pal : List Rgba), s.pal = some pal →
    execAll (es.map fun e => palInstr e f) s = .next { s with pal := some (pal ++ es.map (palConvert f)) }

/-! ## The header -/

/-- 40_header R151 (layout 30_encoding R120), 45_operations R347: HDR.PARSE on a header that fits and whose codes are known loads every field from
its offset, the geometry and DSC_VALID; RES_REGION is computed; PARSE_HEADER delivers the descriptor and completes, DECODE goes on to the
palette. Nothing else is written. -/
def Obligations.HeaderParseLoadsEveryField : Prop :=
  ∀ (s : State) (wb : List Byte) (hb : Word) (rawFmt rawPal : Nat) (f : PixFmt) (pf : PalFmt),
    s.wb = some wb → s.hb = some hb → hb.toNat + 0x20 ≤ wb.length →
    memRead wb hb.toNat 1 = some rawFmt → memRead wb (hb.toNat + 0x09) 1 = some rawPal →
    fmtOfCode s.params (BitVec.ofNat 8 rawFmt) = some f → palOfCode s.params (BitVec.ofNat 8 rawPal) = some pf →
    ∃ d : Dsc,
      (d.formatRaw.toNat = rawFmt ∧ d.format = f ∧ d.palFmtRaw.toNat = rawPal ∧ d.palFmt = pf ∧
        memRead wb (hb.toNat + 0x01) 1 = some d.alpha.toNat ∧ memRead wb (hb.toNat + 0x02) 2 = some d.width.toNat ∧
        memRead wb (hb.toNat + 0x04) 2 = some d.height.toNat ∧ memRead wb (hb.toNat + 0x06) 1 = some d.wrapS.toNat ∧
        memRead wb (hb.toNat + 0x07) 1 = some d.wrapT.toNat ∧ memRead wb (hb.toNat + 0x08) 1 = some d.palEn.toNat ∧
        memRead wb (hb.toNat + 0x0A) 2 = some d.colorCount.toNat ∧ memRead wb (hb.toNat + 0x0C) 4 = some d.palOff.toNat ∧
        memRead wb (hb.toNat + 0x14) 1 = some d.minFilter.toNat ∧ memRead wb (hb.toNat + 0x15) 1 = some d.magFilter.toNat ∧
        memRead wb (hb.toNat + 0x16) 1 = some d.minLod.toNat ∧ memRead wb (hb.toNat + 0x17) 1 = some d.maxLod.toNat ∧
        memRead wb (hb.toNat + 0x18) 1 = some d.mipCount.toNat ∧ memRead wb (hb.toNat + 0x1A) 2 = some d.lodBias.toNat ∧
        memRead wb (hb.toNat + 0x1C) 4 = some d.imgOff.toNat) ∧
      (s.op = some .parseHeader → exec .hdrParse s = .next { s with
        dsc := some d, geom := some (geometryOf d), dscValid := true, resRegion := some (regionSize s.params d),
        resDsc := some d, seq := .complete }) ∧
      (s.op = some .decode → exec .hdrParse s = .next { s with
        dsc := some d, geom := some (geometryOf d), dscValid := true, resRegion := some (regionSize s.params d),
        phase := .pal, seq := .first })

/-- 40_header R155, R156, R157: a header that does not fit raises OutOfRange at HB whatever its codes; else an unmapped format code raises
UnknownFormat with the raw code, whatever the palette-format code; else, for every pixel format, an unmapped palette-format code raises
UnknownPaletteFormat with the raw code. Nothing of the descriptor is written. That the other
registers stay as they are when the error is raised is notes/assumptions/17.md. -/
def Obligations.HeaderErrorsComeInOrder : Prop :=
  ∀ (s : State) (wb : List Byte) (hb : Word), s.wb = some wb → s.hb = some hb →
    (wb.length < hb.toNat + 0x20 → exec .hdrParse s = .next { s with
      status := ⟨.error, .header, .outOfRange, some (hb.toNat : Int)⟩, phase := .error,
      resBytes := none, resDsc := none, resPb := none, resRegion := none }) ∧
    (∀ rawFmt rawPal : Nat, hb.toNat + 0x20 ≤ wb.length → memRead wb hb.toNat 1 = some rawFmt →
      memRead wb (hb.toNat + 0x09) 1 = some rawPal →
      (fmtOfCode s.params (BitVec.ofNat 8 rawFmt) = none → exec .hdrParse s = .next { s with
        status := ⟨.error, .header, .unknownFormat, some (rawFmt : Int)⟩, phase := .error,
        resBytes := none, resDsc := none, resPb := none, resRegion := none }) ∧
      (∀ f, fmtOfCode s.params (BitVec.ofNat 8 rawFmt) = some f → palOfCode s.params (BitVec.ofNat 8 rawPal) = none →
        exec .hdrParse s = .next { s with
          status := ⟨.error, .header, .unknownPaletteFormat, some (rawPal : Int)⟩, phase := .error,
          resBytes := none, resDsc := none, resPb := none, resRegion := none }))

/-- 30_encoding R131: header bytes 0x10 to 0x13 and 0x19 are not read; whatever stands there, HDR.PARSE does the same. -/
def Obligations.UnusedHeaderBytesAreIgnored : Prop :=
  ∀ (s : State) (wb wb' : List Byte) (hb : Word), s.wb = some wb → s.hb = some hb → wb'.length = wb.length →
    (∀ k, k ≠ hb.toNat + 0x10 → k ≠ hb.toNat + 0x11 → k ≠ hb.toNat + 0x12 → k ≠ hb.toNat + 0x13 → k ≠ hb.toNat + 0x19 →
      wb'[k]? = wb[k]?) →
    exec .hdrParse { s with wb := some wb' } = mapNext (fun t => { t with wb := some wb' }) (exec .hdrParse s)

/-- 43_assembler R285: RES_REGION is the sum of the level sizes, each a quarter of the one before, rounded down; by default there are
`max(c, 1)` levels. -/
def Obligations.RegionSizeSumsTheLevels : Prop :=
  (∀ (p : Params) (d : Dsc), regionSize p d =
    ∑ k ∈ Finset.range (mipLevels p d.mipCount), ((geometryOf d).nblk * (geometryOf d).bbytes) / 4 ^ k) ∧
  (∀ c : Byte, mipLevels Params.default c = max c.toNat 1) ∧
  (∀ (s t : State) (d : Dsc), exec .hdrParse s = .next t → t.phase ≠ .error → t.dsc = some d → t.resRegion = some (regionSize s.params d))

/-! ## The assembler -/

/-- 43_assembler R272, 45_operations R348: ASM.START makes a buffer of WIDTH x HEIGHT transparent cells and puts the cursors at 0; an image without
pixels is finished at once, and then the results are delivered. Nothing else is written. -/
def Obligations.AssemblerStartsTransparent : Prop :=
  ∀ (s : State) (d : Dsc), s.dscValid = true → s.dsc = some d →
    ∃ pb : PixBuf, pb.width = d.width.toNat ∧ pb.height = d.height.toNat ∧
      (∀ x y, x < d.width.toNat → y < d.height.toNat → pixRead pb x y = some ⟨0, 0, 0, 0⟩) ∧
      (0 < d.width.toNat → 0 < d.height.toNat → exec .asmStart s = .next { s with
        pb := some pb, bX := some 0, bY := some 0, bK := some 0, seq := .loop }) ∧
      (d.width.toNat = 0 ∨ d.height.toNat = 0 → exec .asmStart s = .next { s with
        pb := some pb, bX := some 0, bY := some 0, bK := some 0, resDsc := some d, resPb := some pb, seq := .complete })

/-- 43_assembler R273, R274, R276: ASM.BLOCK, on a block whose window lies in WB, decodes the window by the format's routine, and
writes exactly the cells of the block that lie inside the image and got a colour; every other cell reads as before. The cursors go to the next
block, and after the last the results are delivered. BLK, which the window is copied to, exists only during the step (10_state R62) and holds no
value after it. Nothing else is written. -/
def Obligations.AssemblerPlacesOneBlock : Prop :=
  ∀ (s : State) (d : Dsc) (wb : List Byte) (hb : Word) (pal : List Rgba) (bk bx oy : Nat) (pb : PixBuf),
    s.dscValid = true → s.dsc = some d → s.geom = some (geometryOf d) → s.wb = some wb → s.hb = some hb →
    (isIndexed d.format = true → s.pal = some pal) → s.bK = some bk → s.bX = some bx → s.bY = some oy → s.pb = some pb → pixBufWf pb = true →
    pb.width = d.width.toNat → pb.height = d.height.toNat →
    hb.toNat + d.imgOff.toNat + bk * blockBytes d.format + blockBytes d.format ≤ wb.length →
    ∃ (blk : List Byte) (rs : List (Option Rgba)) (pb' : PixBuf) (bx' oy' : Nat),
      blk = (wb.drop (hb.toNat + d.imgOff.toNat + bk * blockBytes d.format)).take (blockBytes d.format) ∧
      rs = blockDecode s.params d.format blk pal ∧
      bx' = (if d.width.toNat ≤ bx + blockWidth d.format then 0 else bx + blockWidth d.format) ∧
      oy' = (if d.width.toNat ≤ bx + blockWidth d.format then oy + blockHeight d.format else oy) ∧
      (pb'.width = pb.width ∧ pb'.height = pb.height ∧ pixBufWf pb' = true) ∧
      (∀ lx ly c, lx < blockWidth d.format → ly < blockHeight d.format → bx + lx < d.width.toNat → oy + ly < d.height.toNat →
        rs[ly * blockWidth d.format + lx]? = some (some c) → pixRead pb' (bx + lx) (oy + ly) = some c) ∧
      (∀ x y, (¬∃ lx ly c, lx < blockWidth d.format ∧ ly < blockHeight d.format ∧ x = bx + lx ∧ y = oy + ly ∧
        rs[ly * blockWidth d.format + lx]? = some (some c)) → pixRead pb' x y = pixRead pb x y) ∧
      (oy' < d.height.toNat → exec .asmBlock s = .next { s with
        blk := none, rslt := some rs, pb := some pb', bK := some (bk + 1), bX := some bx', bY := some oy', seq := .loop }) ∧
      (d.height.toNat ≤ oy' → exec .asmBlock s = .next { s with
        blk := none, rslt := some rs, pb := some pb', bK := some (bk + 1), bX := some bx', bY := some oy',
        resDsc := some d, resPb := some pb', seq := .complete })

/-- 43_assembler R275: a block any of whose bytes lies at or past the end of WB raises OutOfRange in stage BLOCK at the block's address, and no
buffer is delivered. That the other
registers stay as they are when the error is raised is notes/assumptions/17.md. -/
def Obligations.BlockOutOfRange : Prop :=
  ∀ (s : State) (d : Dsc) (wb : List Byte) (hb : Word) (bk : Nat),
    s.dscValid = true → s.dsc = some d → s.geom = some (geometryOf d) → s.wb = some wb → s.hb = some hb → s.bK = some bk →
    wb.length < hb.toNat + d.imgOff.toNat + bk * blockBytes d.format + blockBytes d.format →
    exec .asmBlock s = .next { s with
      status := ⟨.error, .block, .outOfRange, some ((hb.toNat + d.imgOff.toNat + bk * blockBytes d.format : Nat) : Int)⟩, phase := .error,
      resBytes := none, resDsc := none, resPb := none, resRegion := none }

/-- 43_assembler R277, R278: along the walk BK counts the blocks in raster order and (BX, BY) is that block's origin; a block that raises nothing
leads to the next of the NBLK blocks, or finishes the image exactly when it was the last. -/
def Obligations.WalkVisitsEveryBlockOnce : Prop :=
  ∀ (s t : State) (d : Dsc) (k : Nat), DscLoaded s d → WalkAt s d k → s.phase = .asm → exec .asmBlock s = .next t → t.phase ≠ .error →
    t.bK = some (k + 1) ∧
    (k + 1 < (geometryOf d).nblk → t.seq = .loop ∧ WalkAt t d (k + 1)) ∧
    (k + 1 = (geometryOf d).nblk → t.seq = .complete ∧ t.resDsc = some d ∧ t.resPb = t.pb)

/-- 43_assembler R277, R280: the buffer holds, in the blocks visited so far, what each block decodes to, and `(0, 0, 0, 0)` in the others and at
absent pixels. ASM.START makes this true for 0 blocks and ASM.BLOCK takes it from `k` to `k + 1` blocks, so that after the last block the
buffer is the image. -/
def Obligations.BufferIsTheImageSoFar : Prop :=
  (∀ (s t : State) (d : Dsc) (hb : Word) (wb : List Byte) (pal : List Rgba), s.dscValid = true → s.dsc = some d →
    exec .asmStart s = .next t → ∃ pb, t.pb = some pb ∧ ImageSoFar s.params d hb wb pal 0 pb) ∧
  (∀ (s t : State) (d : Dsc) (k : Nat) (hb : Word) (wb : List Byte) (pal : List Rgba) (pb : PixBuf),
    DscLoaded s d → WalkAt s d k → s.phase = .asm → s.hb = some hb → s.wb = some wb → s.pal = some pal → s.pb = some pb →
    pixBufWf pb = true → ImageSoFar s.params d hb wb pal k pb → exec .asmBlock s = .next t → t.phase ≠ .error →
    ∃ pb', t.pb = some pb' ∧ ImageSoFar s.params d hb wb pal (k + 1) pb')

/-! ## Operations, completion and errors -/

/-- 45_operations R341 (and R352 for the work buffer): each operation instruction, while STATE is not BUSY, starts the operation; while it is BUSY
the instruction has no move (70_reset R430, U17). The hidden registers hold no value after Start: that clause is the model's reading of R31,
notes/assumptions/8.md. -/
def Obligations.OperationsStart : Prop :=
  (∀ (s : State) (inp : List Byte) (hb : Word), s.status.state ≠ .busy →
    ∀ (i : Instr) (op : OpCode) (ph : Phase) (wb : Option (List Byte)),
      (i = .opDecompress inp hb ∧ op = .decompress ∧ ph = .lz ∧ wb = none) ∨
      (i = .opParseHeader inp hb ∧ op = .parseHeader ∧ ph = .hdr ∧ wb = some inp) ∨
      (i = .opDecode inp hb ∧ op = .decode ∧ ph = .lz ∧ wb = none) →
      exec i s = .next { State.reset with
        params := s.params, requests := s.requests, freeCount := s.freeCount, op := some op, inp := some inp, hb := some hb, wb := wb,
        status := ⟨.busy, .none, .none, none⟩, phase := ph, seq := .first }) ∧
  (∀ (s : State) (inp : List Byte) (hb : Word), s.status.state = .busy →
    exec (.opDecompress inp hb) s = .refused .busy ∧ exec (.opParseHeader inp hb) s = .refused .busy ∧
    exec (.opDecode inp hb) s = .refused .busy)

/-- 45_operations R341, 30_encoding R124: outside an operation the next request with code 1, 2 or 3 starts its operation with STATE BUSY, no error,
no results and DSC_VALID 0; any other code starts none and leaves STATUS and every register as it is (the request is gone: the model's
reading, notes/assumptions/5.md). -/
def Obligations.RequestsStartOperations : Prop :=
  ∀ (s : State) (r : Request) (rest : List Request), s.requests = r :: rest → busyPhase s.phase = false → s.status.state ≠ .busy →
    (r.op = 1 ∨ r.op = 2 ∨ r.op = 3 → ∃ t, step s = .next t ∧
      ((r.op = 1 ∧ t.op = some .decompress ∧ t.phase = .lz) ∨ (r.op = 2 ∧ t.op = some .parseHeader ∧ t.phase = .hdr) ∨
        (r.op = 3 ∧ t.op = some .decode ∧ t.phase = .lz)) ∧
      t.inp = some r.inp ∧ t.inLen = some r.inp.length ∧ t.hb = some r.hb ∧ t.status = ⟨.busy, .none, .none, none⟩ ∧
      noResults t ∧ t.dscValid = false ∧ t.requests = rest) ∧
    (r.op ≠ 1 → r.op ≠ 2 → r.op ≠ 3 → step s = .next { s with requests := rest })

/-- 45_operations R349: completion changes PHASE and STATE to DONE; the results were written before. That nothing else changes, the hidden registers
included, is the model's reading (notes/assumptions/17.md): 44_lz_stream R325, R358 and U18 leave it open. -/
def Obligations.CompletionSetsDone : Prop :=
  ∀ s : State, busyPhase s.phase = true → s.seq = .complete →
    step s = .next { s with phase := .done, status := { s.status with state := .done } }

/-- 60_exceptions R380, R371, R372: a step inside an operation that raises an error enters it: STATUS records a listed code and stage and an address,
the results are cleared, PHASE and STATE become ERROR, and none of the step's own results is written. The stage is that of the unit whose step
raised the error (R372). That every other register, the hidden ones included, then stays as it was before the step is the model's reading
(notes/assumptions/17.md): R358 and U18 leave the hidden registers open. -/
def Obligations.ErrorsArePrecise : Prop :=
  ∀ s t : State, busyPhase s.phase = true → step s = .next t → t.phase = .error →
    ∃ (c : ErrCode) (g : Stage) (a : Int), legalError c g = true ∧
      (s.phase = .lz → g = .decompress) ∧ (s.phase = .hdr → g = .header) ∧ (s.phase = .pal → g = .palette) ∧ (s.phase = .asm → g = .block) ∧
      t = { s with status := ⟨.error, g, c, some a⟩, phase := .error, resBytes := none, resDsc := none, resPb := none, resRegion := none }

/-- 60_exceptions R391, 70_reset R411: with no request the engine takes no step in IDLE, DONE and ERROR, so nothing is lost and an error stays. -/
def Obligations.EngineWaitsForTheHost : Prop :=
  ∀ s : State, busyPhase s.phase = false → s.requests = [] → step s = .next s

/-- 70_reset R430, 10_state R70, R77: the host reads a result register's value while STATE = DONE and it holds one; any other read faults: one
while STATE is another, and one while STATE = DONE of a register that the operation has not written (RES_PB after DECOMPRESS). -/
def Obligations.HostReadsResultsOnlyWhenDone : Prop :=
  (∀ s : State, s.status.state ≠ .done →
    hostResBytes s = .error (.noValue .resBytes) ∧ hostResDsc s = .error (.noValue .resDsc) ∧ hostResPb s = .error (.noValue .resPb) ∧
    hostResRegion s = .error (.noValue .resRegion)) ∧
  (∀ (s : State) (l : List Byte) (d : Dsc) (pb : PixBuf) (n : Nat), s.status.state = .done →
    (s.resBytes = some l → hostResBytes s = .ok l) ∧ (s.resDsc = some d → hostResDsc s = .ok d) ∧
    (s.resPb = some pb → hostResPb s = .ok pb) ∧ (s.resRegion = some n → hostResRegion s = .ok n)) ∧
  (∀ s : State, s.status.state = .done →
    (s.resBytes = none → hostResBytes s = .error (.noValue .resBytes)) ∧ (s.resDsc = none → hostResDsc s = .error (.noValue .resDsc)) ∧
    (s.resPb = none → hostResPb s = .error (.noValue .resPb)) ∧ (s.resRegion = none → hostResRegion s = .error (.noValue .resRegion)))

/-- 70_reset R410: the state after reset. -/
def Obligations.ResetState : Prop :=
  State.reset.phase = .idle ∧ stateCode State.reset.status.state = 0 ∧ stageCode State.reset.status.errStage = 0 ∧
  errorCode State.reset.status.errCode = 0 ∧ State.reset.status.errAddr = none ∧
  State.reset.op = none ∧ State.reset.hb = none ∧ State.reset.inp = none ∧ State.reset.inLen = none ∧
  State.reset.ip = none ∧ State.reset.out = none ∧ State.reset.dsize = none ∧ State.reset.flags = none ∧ State.reset.nbits = none ∧
  State.reset.src = none ∧ State.reset.cnt = none ∧ State.reset.wb = none ∧ State.reset.dsc = none ∧ State.reset.geom = none ∧
  State.reset.dscValid = false ∧ State.reset.palLen = none ∧ State.reset.pal = none ∧
  State.reset.bX = none ∧ State.reset.bY = none ∧ State.reset.bK = none ∧ State.reset.blk = none ∧ State.reset.pb = none ∧ noResults State.reset

/-- 10_state R35, 60_exceptions R371: the numbers the host reads in STATUS. -/
def Obligations.StatusCodes : Prop :=
  (stateCode .idle = 0 ∧ stateCode .busy = 1 ∧ stateCode .done = 2 ∧ stateCode .error = 3) ∧
  (stageCode .none = 0 ∧ stageCode .decompress = 1 ∧ stageCode .header = 2 ∧ stageCode .palette = 3 ∧ stageCode .block = 4) ∧
  (errorCode .none = 0 ∧ errorCode .outOfRange = 1 ∧ errorCode .unknownFormat = 2 ∧ errorCode .unknownPaletteFormat = 3 ∧
    errorCode .lzBackref = 4 ∧ errorCode .lzTruncated = 5 ∧ errorCode .lzOverrun = 6)

/-- 45_operations R352: a PARSE_HEADER started while the engine is free, on bytes that hold a header with known codes at HB, ends after its three
steps with STATE = DONE; the host reads the descriptor and the region size, and no byte was decompressed. The last two clauses are the model's
reading: OUT holds no value because Start discards it (notes/assumptions/8.md), and that WB still holds the input after the end is
notes/assumptions/17.md. -/
def Obligations.ParseHeaderDeliversTheDescriptor : Prop :=
  ∀ (s : State) (inp : List Byte) (hb : Word) (rest : List Request) (d : Dsc), s.requests = ⟨2, inp, hb⟩ :: rest →
    busyPhase s.phase = false → s.status.state ≠ .busy → hb.toNat + 0x20 ≤ inp.length →
    decodeHeader s.params ((inp.drop hb.toNat).take 0x20) = .ok d →
    ∃ t, Host.Core.run Sys2Proof.core 3 s = .next t ∧ t.status.state = .done ∧ hostResDsc t = .ok d ∧
      hostResRegion t = .ok (regionSize s.params d) ∧ t.wb = some inp ∧ t.out = none

/-! ## The whole machine -/

/-- 70_reset R425: a step runs the instruction that the sequencer or the payload bytes decode to. A unit step is exec of it; a token is exec of it
when a control bit is left; when none is, the control byte runs first and the token after it, in one step (44_lz_stream R306). That the control
byte's effect is dropped when its token raises an error is the model's reading of R380 (notes/assumptions/12.md), and that every other register
then stays as it was before the step is notes/assumptions/17.md. -/
def Obligations.StepRunsTheDecodedInstruction : Prop :=
  (∀ (s : State) (i : Instr), decodeSequencer s.phase s.seq = some i → step s = exec i s) ∧
  (∀ (s : State) (r : Request) (rest : List Request) (i : Instr), busyPhase s.phase = false → s.requests = r :: rest →
    decodeRequest r = some i → step s = exec i { s with requests := rest }) ∧
  (∀ (s : State) (inp out : List Byte) (size : Word) (ip n : Nat), s.phase = .lz → s.seq = .loop →
    s.inp = some inp → s.out = some out → s.dsize = some size → out.length < size.toNat → s.ip = some ip → s.nbits = some n →
    (∀ (f : Byte) (i : Instr) (rest : List Byte), n ≠ 0 → s.flags = some f →
      decode s.params (.token (controlBit f)) (inp.drop ip) = some (i, rest) → step s = exec i s) ∧
    (∀ (f : Byte) (i : Instr) (mid rest : List Byte) (t : State), n = 0 →
      decode s.params .control (inp.drop ip) = some (.lzCtrl f, mid) →
      decode s.params (.token (controlBit f)) mid = some (i, rest) →
      exec i { s with flags := some f, nbits := some 8, ip := some (ip + 1) } = .next t →
      step s = .next (if t.phase = .error then { s with
        status := t.status, phase := .error, resBytes := none, resDsc := none, resPb := none, resRegion := none } else t)))

/-- The state after reset meets the machine's invariant. -/
def Obligations.ResetMeetsTheInvariant : Prop := Inv State.reset

/-- 10_state R77, R62, 45_operations R345, R358: from every state that meets the invariant the machine takes a step, never stopped by a fault or a
refusal, and the next state meets it again: no register is read before it is written, STATUS agrees with PHASE, the walk stays inside the
image, the pixel buffers stay canonical, and BLK holds no value between two steps. -/
def Obligations.StepKeepsTheInvariant : Prop :=
  ∀ s : State, Inv s → ∃ t, step s = .next t ∧ Inv t

/-- Every step, from every state, keeps the canonical form of the pixel buffers. -/
def Obligations.StepKeepsMemoryCanonical : Prop :=
  ∀ s t : State, Memory.wf s = true → step s = .next t → Memory.wf t = true

/-- 70_reset R415, 10_state R34, R40: no step writes the parameters, and inside an operation none writes OP, HB or IN. That the step
which completes the operation, or raises its error, leaves these three is the model's reading (notes/assumptions/17.md). -/
def Obligations.ParametersAndInputsAreReadOnly : Prop :=
  (∀ s t : State, step s = .next t → t.params = s.params) ∧
  ∀ s t : State, busyPhase s.phase = true → step s = .next t → t.op = s.op ∧ t.hb = s.hb ∧ t.inp = s.inp

/-- 40_header R161: of all instructions only HDR.PARSE writes the descriptor; an operation's start, which discards the state before it
(notes/assumptions/8.md), is the one other event. That an instruction which raises an error leaves it is notes/assumptions/17.md. -/
def Obligations.OnlyHeaderParseWritesTheDescriptor : Prop :=
  ∀ (i : Instr) (s t : State), i ≠ .hdrParse → (∀ inp hb, i ≠ .opDecompress inp hb ∧ i ≠ .opParseHeader inp hb ∧ i ≠ .opDecode inp hb) →
    exec i s = .next t → t.dsc = s.dsc ∧ t.dscValid = s.dscValid ∧ t.geom = s.geom

/-- 20_memory R95: a step of the LZ loop only appends to OUT, so each index is written once. That OUT still holds its bytes after the step that
leaves the loop and after a step that raises an error is the model's reading (notes/assumptions/17.md): 44_lz_stream R325, 45_operations R358 and
U18 leave it open. -/
def Obligations.OutputOnlyGrows : Prop :=
  ∀ (s t : State) (out : List Byte), s.phase = .lz → s.seq = .loop → s.out = some out → step s = .next t →
    ∃ more, t.out = some (out ++ more)

/-- 45_operations R345: from a state that meets the invariant, a step leaves a phase only for one that the operation's order allows. -/
def Obligations.PhasesFollowTheOperation : Prop :=
  ∀ s t : State, Inv s → busyPhase s.phase = true → step s = .next t → phaseMayFollow s.op s.phase t.phase = true

/-- 45_operations R342: while an operation runs the host's requests have no effect on it. -/
def Obligations.RequestsCannotDisturbAnOperation : Prop :=
  ∀ (s : State) (q : List Request), busyPhase s.phase = true →
    step { s with requests := q } = mapNext (fun t => { t with requests := q }) (step s)

/-- 45_operations R358: every operation reaches its end. -/
def Obligations.EveryOperationEnds : Prop :=
  ∀ s : State, Inv s → busyPhase s.phase = true →
    ∃ k t, Host.Core.run Sys2Proof.core k s = .next t ∧ (t.phase = .done ∨ t.phase = .error)

/-- 45_operations R356, 10_state R31: an operation's responses depend only on the request and the parameters: started in any two states outside an
operation that have the same parameters, it gives the same responses step for step. -/
def Obligations.OperationsAreDeterministic : Prop :=
  ∀ (s s' : State) (r : Request), s.params = s'.params → s.requests = [r] → s'.requests = [r] → (r.op = 1 ∨ r.op = 2 ∨ r.op = 3) →
    busyPhase s.phase = false → busyPhase s'.phase = false → s.status.state ≠ .busy → s'.status.state ≠ .busy →
    ∀ k, 0 < k → ∃ t t', Host.Core.run Sys2Proof.core k s = .next t ∧ Host.Core.run Sys2Proof.core k s' = .next t' ∧
      t.phase = t'.phase ∧ response t = response t'

/-- 45_operations R357: where DECOMPRESS of `inp` ends with the result `l`, and `l` is not itself tagged, DECODE of `inp` and DECODE of `l` end with
the same response; where DECOMPRESS of `inp` ends in an error, DECODE of `inp` ends in an error of the same stage and code. `s` is any state
outside an operation. -/
def Obligations.DecodeComposesWithDecompress : Prop :=
  ∀ (s t : State) (inp : List Byte) (hb : Word) (k : Nat), busyPhase s.phase = false → s.status.state ≠ .busy → 0 < k →
    Host.Core.run Sys2Proof.core k { s with requests := [⟨1, inp, hb⟩] } = .next t →
    (∀ l : List Byte, t.phase = .done → t.resBytes = some l → l.take 4 ≠ magicBytes s.params.lzMagic →
      ∀ (k₁ k₂ : Nat) (t₁ t₂ : State), 0 < k₁ → 0 < k₂ →
        Host.Core.run Sys2Proof.core k₁ { s with requests := [⟨3, inp, hb⟩] } = .next t₁ →
        Host.Core.run Sys2Proof.core k₂ { s with requests := [⟨3, l, hb⟩] } = .next t₂ →
        busyPhase t₁.phase = false → busyPhase t₂.phase = false → response t₁ = response t₂) ∧
    (t.phase = .error → ∀ (k' : Nat) (t' : State), 0 < k' →
      Host.Core.run Sys2Proof.core k' { s with requests := [⟨3, inp, hb⟩] } = .next t' → busyPhase t'.phase = false →
      t'.phase = .error ∧ t'.status.errStage = t.status.errStage ∧ t'.status.errCode = t.status.errCode)
end

