-- ==== Sys2Proof/Laws/State.lean ====
section
/-! SUPPORT. What each named update of the state leaves in each field: one lemma per field per update, so that no proof unfolds a record update. -/

namespace Sys2Proof.Machine

@[simp] theorem clearResults_params (s : State) : (clearResults s).params = s.params := rfl
@[simp] theorem clearResults_requests (s : State) : (clearResults s).requests = s.requests := rfl
@[simp] theorem clearResults_freeCount (s : State) : (clearResults s).freeCount = s.freeCount := rfl
@[simp] theorem clearResults_phase (s : State) : (clearResults s).phase = s.phase := rfl
@[simp] theorem clearResults_seq (s : State) : (clearResults s).seq = s.seq := rfl
@[simp] theorem clearResults_op (s : State) : (clearResults s).op = s.op := rfl
@[simp] theorem clearResults_hb (s : State) : (clearResults s).hb = s.hb := rfl
@[simp] theorem clearResults_inp (s : State) : (clearResults s).inp = s.inp := rfl
@[simp] theorem clearResults_status (s : State) : (clearResults s).status = s.status := rfl
@[simp] theorem clearResults_ip (s : State) : (clearResults s).ip = s.ip := rfl
@[simp] theorem clearResults_out (s : State) : (clearResults s).out = s.out := rfl
@[simp] theorem clearResults_dsize (s : State) : (clearResults s).dsize = s.dsize := rfl
@[simp] theorem clearResults_flags (s : State) : (clearResults s).flags = s.flags := rfl
@[simp] theorem clearResults_nbits (s : State) : (clearResults s).nbits = s.nbits := rfl
@[simp] theorem clearResults_src (s : State) : (clearResults s).src = s.src := rfl
@[simp] theorem clearResults_cnt (s : State) : (clearResults s).cnt = s.cnt := rfl
@[simp] theorem clearResults_wb (s : State) : (clearResults s).wb = s.wb := rfl
@[simp] theorem clearResults_dsc (s : State) : (clearResults s).dsc = s.dsc := rfl
@[simp] theorem clearResults_dscValid (s : State) : (clearResults s).dscValid = s.dscValid := rfl
@[simp] theorem clearResults_geom (s : State) : (clearResults s).geom = s.geom := rfl
@[simp] theorem clearResults_pal (s : State) : (clearResults s).pal = s.pal := rfl
@[simp] theorem clearResults_bX (s : State) : (clearResults s).bX = s.bX := rfl
@[simp] theorem clearResults_bY (s : State) : (clearResults s).bY = s.bY := rfl
@[simp] theorem clearResults_bK (s : State) : (clearResults s).bK = s.bK := rfl
@[simp] theorem clearResults_pb (s : State) : (clearResults s).pb = s.pb := rfl
@[simp] theorem clearResults_blk (s : State) : (clearResults s).blk = s.blk := rfl
@[simp] theorem clearResults_rslt (s : State) : (clearResults s).rslt = s.rslt := rfl
@[simp] theorem clearResults_resBytes (s : State) : (clearResults s).resBytes = none := rfl
@[simp] theorem clearResults_resDsc (s : State) : (clearResults s).resDsc = none := rfl
@[simp] theorem clearResults_resPb (s : State) : (clearResults s).resPb = none := rfl
@[simp] theorem clearResults_resRegion (s : State) : (clearResults s).resRegion = none := rfl

@[simp] theorem raiseError_params (e : Err) (s : State) : (raiseError e s).params = s.params := rfl
@[simp] theorem raiseError_requests (e : Err) (s : State) : (raiseError e s).requests = s.requests := rfl
@[simp] theorem raiseError_freeCount (e : Err) (s : State) : (raiseError e s).freeCount = s.freeCount := rfl
@[simp] theorem raiseError_phase (e : Err) (s : State) : (raiseError e s).phase = .error := rfl
@[simp] theorem raiseError_seq (e : Err) (s : State) : (raiseError e s).seq = s.seq := rfl
@[simp] theorem raiseError_op (e : Err) (s : State) : (raiseError e s).op = s.op := rfl
@[simp] theorem raiseError_hb (e : Err) (s : State) : (raiseError e s).hb = s.hb := rfl
@[simp] theorem raiseError_inp (e : Err) (s : State) : (raiseError e s).inp = s.inp := rfl
@[simp] theorem raiseError_status (e : Err) (s : State) : (raiseError e s).status = ⟨.error, e.stage, e.code, some e.addr⟩ := rfl
@[simp] theorem raiseError_ip (e : Err) (s : State) : (raiseError e s).ip = s.ip := rfl
@[simp] theorem raiseError_out (e : Err) (s : State) : (raiseError e s).out = s.out := rfl
@[simp] theorem raiseError_dsize (e : Err) (s : State) : (raiseError e s).dsize = s.dsize := rfl
@[simp] theorem raiseError_flags (e : Err) (s : State) : (raiseError e s).flags = s.flags := rfl
@[simp] theorem raiseError_nbits (e : Err) (s : State) : (raiseError e s).nbits = s.nbits := rfl
@[simp] theorem raiseError_src (e : Err) (s : State) : (raiseError e s).src = s.src := rfl
@[simp] theorem raiseError_cnt (e : Err) (s : State) : (raiseError e s).cnt = s.cnt := rfl
@[simp] theorem raiseError_wb (e : Err) (s : State) : (raiseError e s).wb = s.wb := rfl
@[simp] theorem raiseError_dsc (e : Err) (s : State) : (raiseError e s).dsc = s.dsc := rfl
@[simp] theorem raiseError_dscValid (e : Err) (s : State) : (raiseError e s).dscValid = s.dscValid := rfl
@[simp] theorem raiseError_geom (e : Err) (s : State) : (raiseError e s).geom = s.geom := rfl
@[simp] theorem raiseError_pal (e : Err) (s : State) : (raiseError e s).pal = s.pal := rfl
@[simp] theorem raiseError_bX (e : Err) (s : State) : (raiseError e s).bX = s.bX := rfl
@[simp] theorem raiseError_bY (e : Err) (s : State) : (raiseError e s).bY = s.bY := rfl
@[simp] theorem raiseError_bK (e : Err) (s : State) : (raiseError e s).bK = s.bK := rfl
@[simp] theorem raiseError_pb (e : Err) (s : State) : (raiseError e s).pb = s.pb := rfl
@[simp] theorem raiseError_blk (e : Err) (s : State) : (raiseError e s).blk = s.blk := rfl
@[simp] theorem raiseError_rslt (e : Err) (s : State) : (raiseError e s).rslt = s.rslt := rfl
@[simp] theorem raiseError_resBytes (e : Err) (s : State) : (raiseError e s).resBytes = none := rfl
@[simp] theorem raiseError_resDsc (e : Err) (s : State) : (raiseError e s).resDsc = none := rfl
@[simp] theorem raiseError_resPb (e : Err) (s : State) : (raiseError e s).resPb = none := rfl
@[simp] theorem raiseError_resRegion (e : Err) (s : State) : (raiseError e s).resRegion = none := rfl

@[simp] theorem abortTo_params (s t : State) : (abortTo s t).params = s.params := rfl
@[simp] theorem abortTo_requests (s t : State) : (abortTo s t).requests = s.requests := rfl
@[simp] theorem abortTo_freeCount (s t : State) : (abortTo s t).freeCount = s.freeCount := rfl
@[simp] theorem abortTo_phase (s t : State) : (abortTo s t).phase = .error := rfl
@[simp] theorem abortTo_seq (s t : State) : (abortTo s t).seq = s.seq := rfl
@[simp] theorem abortTo_op (s t : State) : (abortTo s t).op = s.op := rfl
@[simp] theorem abortTo_hb (s t : State) : (abortTo s t).hb = s.hb := rfl
@[simp] theorem abortTo_inp (s t : State) : (abortTo s t).inp = s.inp := rfl
@[simp] theorem abortTo_status (s t : State) : (abortTo s t).status = t.status := rfl
@[simp] theorem abortTo_ip (s t : State) : (abortTo s t).ip = s.ip := rfl
@[simp] theorem abortTo_out (s t : State) : (abortTo s t).out = s.out := rfl
@[simp] theorem abortTo_dsize (s t : State) : (abortTo s t).dsize = s.dsize := rfl
@[simp] theorem abortTo_flags (s t : State) : (abortTo s t).flags = s.flags := rfl
@[simp] theorem abortTo_nbits (s t : State) : (abortTo s t).nbits = s.nbits := rfl
@[simp] theorem abortTo_src (s t : State) : (abortTo s t).src = s.src := rfl
@[simp] theorem abortTo_cnt (s t : State) : (abortTo s t).cnt = s.cnt := rfl
@[simp] theorem abortTo_wb (s t : State) : (abortTo s t).wb = s.wb := rfl
@[simp] theorem abortTo_dsc (s t : State) : (abortTo s t).dsc = s.dsc := rfl
@[simp] theorem abortTo_dscValid (s t : State) : (abortTo s t).dscValid = s.dscValid := rfl
@[simp] theorem abortTo_geom (s t : State) : (abortTo s t).geom = s.geom := rfl
@[simp] theorem abortTo_pal (s t : State) : (abortTo s t).pal = s.pal := rfl
@[simp] theorem abortTo_bX (s t : State) : (abortTo s t).bX = s.bX := rfl
@[simp] theorem abortTo_bY (s t : State) : (abortTo s t).bY = s.bY := rfl
@[simp] theorem abortTo_bK (s t : State) : (abortTo s t).bK = s.bK := rfl
@[simp] theorem abortTo_pb (s t : State) : (abortTo s t).pb = s.pb := rfl
@[simp] theorem abortTo_blk (s t : State) : (abortTo s t).blk = s.blk := rfl
@[simp] theorem abortTo_rslt (s t : State) : (abortTo s t).rslt = s.rslt := rfl
@[simp] theorem abortTo_resBytes (s t : State) : (abortTo s t).resBytes = none := rfl
@[simp] theorem abortTo_resDsc (s t : State) : (abortTo s t).resDsc = none := rfl
@[simp] theorem abortTo_resPb (s t : State) : (abortTo s t).resPb = none := rfl
@[simp] theorem abortTo_resRegion (s t : State) : (abortTo s t).resRegion = none := rfl

@[simp] theorem completeOp_params (s : State) : (completeOp s).params = s.params := rfl
@[simp] theorem completeOp_requests (s : State) : (completeOp s).requests = s.requests := rfl
@[simp] theorem completeOp_freeCount (s : State) : (completeOp s).freeCount = s.freeCount := rfl
@[simp] theorem completeOp_phase (s : State) : (completeOp s).phase = .done := rfl
@[simp] theorem completeOp_seq (s : State) : (completeOp s).seq = s.seq := rfl
@[simp] theorem completeOp_op (s : State) : (completeOp s).op = s.op := rfl
@[simp] theorem completeOp_hb (s : State) : (completeOp s).hb = s.hb := rfl
@[simp] theorem completeOp_inp (s : State) : (completeOp s).inp = s.inp := rfl
@[simp] theorem completeOp_status (s : State) : (completeOp s).status = { s.status with state := .done } := rfl
@[simp] theorem completeOp_ip (s : State) : (completeOp s).ip = s.ip := rfl
@[simp] theorem completeOp_out (s : State) : (completeOp s).out = s.out := rfl
@[simp] theorem completeOp_dsize (s : State) : (completeOp s).dsize = s.dsize := rfl
@[simp] theorem completeOp_flags (s : State) : (completeOp s).flags = s.flags := rfl
@[simp] theorem completeOp_nbits (s : State) : (completeOp s).nbits = s.nbits := rfl
@[simp] theorem completeOp_src (s : State) : (completeOp s).src = s.src := rfl
@[simp] theorem completeOp_cnt (s : State) : (completeOp s).cnt = s.cnt := rfl
@[simp] theorem completeOp_wb (s : State) : (completeOp s).wb = s.wb := rfl
@[simp] theorem completeOp_dsc (s : State) : (completeOp s).dsc = s.dsc := rfl
@[simp] theorem completeOp_dscValid (s : State) : (completeOp s).dscValid = s.dscValid := rfl
@[simp] theorem completeOp_geom (s : State) : (completeOp s).geom = s.geom := rfl
@[simp] theorem completeOp_pal (s : State) : (completeOp s).pal = s.pal := rfl
@[simp] theorem completeOp_bX (s : State) : (completeOp s).bX = s.bX := rfl
@[simp] theorem completeOp_bY (s : State) : (completeOp s).bY = s.bY := rfl
@[simp] theorem completeOp_bK (s : State) : (completeOp s).bK = s.bK := rfl
@[simp] theorem completeOp_pb (s : State) : (completeOp s).pb = s.pb := rfl
@[simp] theorem completeOp_blk (s : State) : (completeOp s).blk = s.blk := rfl
@[simp] theorem completeOp_rslt (s : State) : (completeOp s).rslt = s.rslt := rfl
@[simp] theorem completeOp_resBytes (s : State) : (completeOp s).resBytes = s.resBytes := rfl
@[simp] theorem completeOp_resDsc (s : State) : (completeOp s).resDsc = s.resDsc := rfl
@[simp] theorem completeOp_resPb (s : State) : (completeOp s).resPb = s.resPb := rfl
@[simp] theorem completeOp_resRegion (s : State) : (completeOp s).resRegion = s.resRegion := rfl

@[simp] theorem enterPhase_params (ph : Phase) (s : State) : (enterPhase ph s).params = s.params := rfl
@[simp] theorem enterPhase_requests (ph : Phase) (s : State) : (enterPhase ph s).requests = s.requests := rfl
@[simp] theorem enterPhase_freeCount (ph : Phase) (s : State) : (enterPhase ph s).freeCount = s.freeCount := rfl
@[simp] theorem enterPhase_phase (ph : Phase) (s : State) : (enterPhase ph s).phase = ph := rfl
@[simp] theorem enterPhase_seq (ph : Phase) (s : State) : (enterPhase ph s).seq = .first := rfl
@[simp] theorem enterPhase_op (ph : Phase) (s : State) : (enterPhase ph s).op = s.op := rfl
@[simp] theorem enterPhase_hb (ph : Phase) (s : State) : (enterPhase ph s).hb = s.hb := rfl
@[simp] theorem enterPhase_inp (ph : Phase) (s : State) : (enterPhase ph s).inp = s.inp := rfl
@[simp] theorem enterPhase_status (ph : Phase) (s : State) : (enterPhase ph s).status = s.status := rfl
@[simp] theorem enterPhase_ip (ph : Phase) (s : State) : (enterPhase ph s).ip = s.ip := rfl
@[simp] theorem enterPhase_out (ph : Phase) (s : State) : (enterPhase ph s).out = s.out := rfl
@[simp] theorem enterPhase_dsize (ph : Phase) (s : State) : (enterPhase ph s).dsize = s.dsize := rfl
@[simp] theorem enterPhase_flags (ph : Phase) (s : State) : (enterPhase ph s).flags = s.flags := rfl
@[simp] theorem enterPhase_nbits (ph : Phase) (s : State) : (enterPhase ph s).nbits = s.nbits := rfl
@[simp] theorem enterPhase_src (ph : Phase) (s : State) : (enterPhase ph s).src = s.src := rfl
@[simp] theorem enterPhase_cnt (ph : Phase) (s : State) : (enterPhase ph s).cnt = s.cnt := rfl
@[simp] theorem enterPhase_wb (ph : Phase) (s : State) : (enterPhase ph s).wb = s.wb := rfl
@[simp] theorem enterPhase_dsc (ph : Phase) (s : State) : (enterPhase ph s).dsc = s.dsc := rfl
@[simp] theorem enterPhase_dscValid (ph : Phase) (s : State) : (enterPhase ph s).dscValid = s.dscValid := rfl
@[simp] theorem enterPhase_geom (ph : Phase) (s : State) : (enterPhase ph s).geom = s.geom := rfl
@[simp] theorem enterPhase_pal (ph : Phase) (s : State) : (enterPhase ph s).pal = s.pal := rfl
@[simp] theorem enterPhase_bX (ph : Phase) (s : State) : (enterPhase ph s).bX = s.bX := rfl
@[simp] theorem enterPhase_bY (ph : Phase) (s : State) : (enterPhase ph s).bY = s.bY := rfl
@[simp] theorem enterPhase_bK (ph : Phase) (s : State) : (enterPhase ph s).bK = s.bK := rfl
@[simp] theorem enterPhase_pb (ph : Phase) (s : State) : (enterPhase ph s).pb = s.pb := rfl
@[simp] theorem enterPhase_blk (ph : Phase) (s : State) : (enterPhase ph s).blk = s.blk := rfl
@[simp] theorem enterPhase_rslt (ph : Phase) (s : State) : (enterPhase ph s).rslt = s.rslt := rfl
@[simp] theorem enterPhase_resBytes (ph : Phase) (s : State) : (enterPhase ph s).resBytes = s.resBytes := rfl
@[simp] theorem enterPhase_resDsc (ph : Phase) (s : State) : (enterPhase ph s).resDsc = s.resDsc := rfl
@[simp] theorem enterPhase_resPb (ph : Phase) (s : State) : (enterPhase ph s).resPb = s.resPb := rfl
@[simp] theorem enterPhase_resRegion (ph : Phase) (s : State) : (enterPhase ph s).resRegion = s.resRegion := rfl

@[simp] theorem start_params (op : OpCode) (inp : List Byte) (hb : Word) (s : State) : (start op inp hb s).params = s.params := rfl
@[simp] theorem start_requests (op : OpCode) (inp : List Byte) (hb : Word) (s : State) : (start op inp hb s).requests = s.requests := rfl
@[simp] theorem start_freeCount (op : OpCode) (inp : List Byte) (hb : Word) (s : State) : (start op inp hb s).freeCount = s.freeCount := rfl
@[simp] theorem start_phase (op : OpCode) (inp : List Byte) (hb : Word) (s : State) : (start op inp hb s).phase = if op = .parseHeader then .hdr else .lz := rfl
@[simp] theorem start_seq (op : OpCode) (inp : List Byte) (hb : Word) (s : State) : (start op inp hb s).seq = .first := rfl
@[simp] theorem start_op (op : OpCode) (inp : List Byte) (hb : Word) (s : State) : (start op inp hb s).op = some op := rfl
@[simp] theorem start_hb (op : OpCode) (inp : List Byte) (hb : Word) (s : State) : (start op inp hb s).hb = some hb := rfl
@[simp] theorem start_inp (op : OpCode) (inp : List Byte) (hb : Word) (s : State) : (start op inp hb s).inp = some inp := rfl
@[simp] theorem start_status (op : OpCode) (inp : List Byte) (hb : Word) (s : State) : (start op inp hb s).status = ⟨.busy, .none, .none, none⟩ := rfl
@[simp] theorem start_ip (op : OpCode) (inp : List Byte) (hb : Word) (s : State) : (start op inp hb s).ip = none := rfl
@[simp] theorem start_out (op : OpCode) (inp : List Byte) (hb : Word) (s : State) : (start op inp hb s).out = none := rfl
@[simp] theorem start_dsize (op : OpCode) (inp : List Byte) (hb : Word) (s : State) : (start op inp hb s).dsize = none := rfl
@[simp] theorem start_flags (op : OpCode) (inp : List Byte) (hb : Word) (s : State) : (start op inp hb s).flags = none := rfl
@[simp] theorem start_nbits (op : OpCode) (inp : List Byte) (hb : Word) (s : State) : (start op inp hb s).nbits = none := rfl
@[simp] theorem start_src (op : OpCode) (inp : List Byte) (hb : Word) (s : State) : (start op inp hb s).src = none := rfl
@[simp] theorem start_cnt (op : OpCode) (inp : List Byte) (hb : Word) (s : State) : (start op inp hb s).cnt = none := rfl
@[simp] theorem start_wb (op : OpCode) (inp : List Byte) (hb : Word) (s : State) : (start op inp hb s).wb = none := rfl
@[simp] theorem start_dsc (op : OpCode) (inp : List Byte) (hb : Word) (s : State) : (start op inp hb s).dsc = none := rfl
@[simp] theorem start_dscValid (op : OpCode) (inp : List Byte) (hb : Word) (s : State) : (start op inp hb s).dscValid = false := rfl
@[simp] theorem start_geom (op : OpCode) (inp : List Byte) (hb : Word) (s : State) : (start op inp hb s).geom = none := rfl
@[simp] theorem start_pal (op : OpCode) (inp : List Byte) (hb : Word) (s : State) : (start op inp hb s).pal = none := rfl
@[simp] theorem start_bX (op : OpCode) (inp : List Byte) (hb : Word) (s : State) : (start op inp hb s).bX = none := rfl
@[simp] theorem start_bY (op : OpCode) (inp : List Byte) (hb : Word) (s : State) : (start op inp hb s).bY = none := rfl
@[simp] theorem start_bK (op : OpCode) (inp : List Byte) (hb : Word) (s : State) : (start op inp hb s).bK = none := rfl
@[simp] theorem start_pb (op : OpCode) (inp : List Byte) (hb : Word) (s : State) : (start op inp hb s).pb = none := rfl
@[simp] theorem start_blk (op : OpCode) (inp : List Byte) (hb : Word) (s : State) : (start op inp hb s).blk = none := rfl
@[simp] theorem start_rslt (op : OpCode) (inp : List Byte) (hb : Word) (s : State) : (start op inp hb s).rslt = none := rfl
@[simp] theorem start_resBytes (op : OpCode) (inp : List Byte) (hb : Word) (s : State) : (start op inp hb s).resBytes = none := rfl
@[simp] theorem start_resDsc (op : OpCode) (inp : List Byte) (hb : Word) (s : State) : (start op inp hb s).resDsc = none := rfl
@[simp] theorem start_resPb (op : OpCode) (inp : List Byte) (hb : Word) (s : State) : (start op inp hb s).resPb = none := rfl
@[simp] theorem start_resRegion (op : OpCode) (inp : List Byte) (hb : Word) (s : State) : (start op inp hb s).resRegion = none := rfl

@[simp] theorem lzInit_params (size : Nat) (s : State) : (lzInit size s).params = s.params := rfl
@[simp] theorem lzInit_requests (size : Nat) (s : State) : (lzInit size s).requests = s.requests := rfl
@[simp] theorem lzInit_freeCount (size : Nat) (s : State) : (lzInit size s).freeCount = s.freeCount + 1 := rfl
@[simp] theorem lzInit_phase (size : Nat) (s : State) : (lzInit size s).phase = s.phase := rfl
@[simp] theorem lzInit_seq (size : Nat) (s : State) : (lzInit size s).seq = .loop := rfl
@[simp] theorem lzInit_op (size : Nat) (s : State) : (lzInit size s).op = s.op := rfl
@[simp] theorem lzInit_hb (size : Nat) (s : State) : (lzInit size s).hb = s.hb := rfl
@[simp] theorem lzInit_inp (size : Nat) (s : State) : (lzInit size s).inp = s.inp := rfl
@[simp] theorem lzInit_status (size : Nat) (s : State) : (lzInit size s).status = s.status := rfl
@[simp] theorem lzInit_ip (size : Nat) (s : State) : (lzInit size s).ip = some 0x10 := rfl
@[simp] theorem lzInit_out (size : Nat) (s : State) : (lzInit size s).out = some [] := rfl
@[simp] theorem lzInit_dsize (size : Nat) (s : State) : (lzInit size s).dsize = some (BitVec.ofNat 32 size) := rfl
@[simp] theorem lzInit_flags (size : Nat) (s : State) : (lzInit size s).flags = some (Config.freeFlags s.freeCount) := rfl
@[simp] theorem lzInit_nbits (size : Nat) (s : State) : (lzInit size s).nbits = some 0 := rfl
@[simp] theorem lzInit_src (size : Nat) (s : State) : (lzInit size s).src = s.src := rfl
@[simp] theorem lzInit_cnt (size : Nat) (s : State) : (lzInit size s).cnt = s.cnt := rfl
@[simp] theorem lzInit_wb (size : Nat) (s : State) : (lzInit size s).wb = s.wb := rfl
@[simp] theorem lzInit_dsc (size : Nat) (s : State) : (lzInit size s).dsc = s.dsc := rfl
@[simp] theorem lzInit_dscValid (size : Nat) (s : State) : (lzInit size s).dscValid = s.dscValid := rfl
@[simp] theorem lzInit_geom (size : Nat) (s : State) : (lzInit size s).geom = s.geom := rfl
@[simp] theorem lzInit_pal (size : Nat) (s : State) : (lzInit size s).pal = s.pal := rfl
@[simp] theorem lzInit_bX (size : Nat) (s : State) : (lzInit size s).bX = s.bX := rfl
@[simp] theorem lzInit_bY (size : Nat) (s : State) : (lzInit size s).bY = s.bY := rfl
@[simp] theorem lzInit_bK (size : Nat) (s : State) : (lzInit size s).bK = s.bK := rfl
@[simp] theorem lzInit_pb (size : Nat) (s : State) : (lzInit size s).pb = s.pb := rfl
@[simp] theorem lzInit_blk (size : Nat) (s : State) : (lzInit size s).blk = s.blk := rfl
@[simp] theorem lzInit_rslt (size : Nat) (s : State) : (lzInit size s).rslt = s.rslt := rfl
@[simp] theorem lzInit_resBytes (size : Nat) (s : State) : (lzInit size s).resBytes = s.resBytes := rfl
@[simp] theorem lzInit_resDsc (size : Nat) (s : State) : (lzInit size s).resDsc = s.resDsc := rfl
@[simp] theorem lzInit_resPb (size : Nat) (s : State) : (lzInit size s).resPb = s.resPb := rfl
@[simp] theorem lzInit_resRegion (size : Nat) (s : State) : (lzInit size s).resRegion = s.resRegion := rfl


@[simp] theorem loadDsc_params (d : Dsc) (s : State) : (loadDsc d s).params = s.params := rfl
@[simp] theorem loadDsc_requests (d : Dsc) (s : State) : (loadDsc d s).requests = s.requests := rfl
@[simp] theorem loadDsc_freeCount (d : Dsc) (s : State) : (loadDsc d s).freeCount = s.freeCount := rfl
@[simp] theorem loadDsc_phase (d : Dsc) (s : State) : (loadDsc d s).phase = s.phase := rfl
@[simp] theorem loadDsc_seq (d : Dsc) (s : State) : (loadDsc d s).seq = s.seq := rfl
@[simp] theorem loadDsc_op (d : Dsc) (s : State) : (loadDsc d s).op = s.op := rfl
@[simp] theorem loadDsc_hb (d : Dsc) (s : State) : (loadDsc d s).hb = s.hb := rfl
@[simp] theorem loadDsc_inp (d : Dsc) (s : State) : (loadDsc d s).inp = s.inp := rfl
@[simp] theorem loadDsc_status (d : Dsc) (s : State) : (loadDsc d s).status = s.status := rfl
@[simp] theorem loadDsc_ip (d : Dsc) (s : State) : (loadDsc d s).ip = s.ip := rfl
@[simp] theorem loadDsc_out (d : Dsc) (s : State) : (loadDsc d s).out = s.out := rfl
@[simp] theorem loadDsc_dsize (d : Dsc) (s : State) : (loadDsc d s).dsize = s.dsize := rfl
@[simp] theorem loadDsc_flags (d : Dsc) (s : State) : (loadDsc d s).flags = s.flags := rfl
@[simp] theorem loadDsc_nbits (d : Dsc) (s : State) : (loadDsc d s).nbits = s.nbits := rfl
@[simp] theorem loadDsc_src (d : Dsc) (s : State) : (loadDsc d s).src = s.src := rfl
@[simp] theorem loadDsc_cnt (d : Dsc) (s : State) : (loadDsc d s).cnt = s.cnt := rfl
@[simp] theorem loadDsc_wb (d : Dsc) (s : State) : (loadDsc d s).wb = s.wb := rfl
@[simp] theorem loadDsc_dsc (d : Dsc) (s : State) : (loadDsc d s).dsc = some d := rfl
@[simp] theorem loadDsc_dscValid (d : Dsc) (s : State) : (loadDsc d s).dscValid = true := rfl
@[simp] theorem loadDsc_geom (d : Dsc) (s : State) : (loadDsc d s).geom = some (geometryOf d) := rfl
@[simp] theorem loadDsc_pal (d : Dsc) (s : State) : (loadDsc d s).pal = s.pal := rfl
@[simp] theorem loadDsc_bX (d : Dsc) (s : State) : (loadDsc d s).bX = s.bX := rfl
@[simp] theorem loadDsc_bY (d : Dsc) (s : State) : (loadDsc d s).bY = s.bY := rfl
@[simp] theorem loadDsc_bK (d : Dsc) (s : State) : (loadDsc d s).bK = s.bK := rfl
@[simp] theorem loadDsc_pb (d : Dsc) (s : State) : (loadDsc d s).pb = s.pb := rfl
@[simp] theorem loadDsc_blk (d : Dsc) (s : State) : (loadDsc d s).blk = s.blk := rfl
@[simp] theorem loadDsc_rslt (d : Dsc) (s : State) : (loadDsc d s).rslt = s.rslt := rfl
@[simp] theorem loadDsc_resBytes (d : Dsc) (s : State) : (loadDsc d s).resBytes = s.resBytes := rfl
@[simp] theorem loadDsc_resDsc (d : Dsc) (s : State) : (loadDsc d s).resDsc = s.resDsc := rfl
@[simp] theorem loadDsc_resPb (d : Dsc) (s : State) : (loadDsc d s).resPb = s.resPb := rfl
@[simp] theorem loadDsc_resRegion (d : Dsc) (s : State) : (loadDsc d s).resRegion = s.resRegion := rfl

@[simp] theorem finishAsm_params (d : Dsc) (pb : PixBuf) (s : State) : (finishAsm d pb s).params = s.params := rfl
@[simp] theorem finishAsm_requests (d : Dsc) (pb : PixBuf) (s : State) : (finishAsm d pb s).requests = s.requests := rfl
@[simp] theorem finishAsm_freeCount (d : Dsc) (pb : PixBuf) (s : State) : (finishAsm d pb s).freeCount = s.freeCount := rfl
@[simp] theorem finishAsm_phase (d : Dsc) (pb : PixBuf) (s : State) : (finishAsm d pb s).phase = s.phase := rfl
@[simp] theorem finishAsm_seq (d : Dsc) (pb : PixBuf) (s : State) : (finishAsm d pb s).seq = .complete := rfl
@[simp] theorem finishAsm_op (d : Dsc) (pb : PixBuf) (s : State) : (finishAsm d pb s).op = s.op := rfl
@[simp] theorem finishAsm_hb (d : Dsc) (pb : PixBuf) (s : State) : (finishAsm d pb s).hb = s.hb := rfl
@[simp] theorem finishAsm_inp (d : Dsc) (pb : PixBuf) (s : State) : (finishAsm d pb s).inp = s.inp := rfl
@[simp] theorem finishAsm_status (d : Dsc) (pb : PixBuf) (s : State) : (finishAsm d pb s).status = s.status := rfl
@[simp] theorem finishAsm_ip (d : Dsc) (pb : PixBuf) (s : State) : (finishAsm d pb s).ip = s.ip := rfl
@[simp] theorem finishAsm_out (d : Dsc) (pb : PixBuf) (s : State) : (finishAsm d pb s).out = s.out := rfl
@[simp] theorem finishAsm_dsize (d : Dsc) (pb : PixBuf) (s : State) : (finishAsm d pb s).dsize = s.dsize := rfl
@[simp] theorem finishAsm_flags (d : Dsc) (pb : PixBuf) (s : State) : (finishAsm d pb s).flags = s.flags := rfl
@[simp] theorem finishAsm_nbits (d : Dsc) (pb : PixBuf) (s : State) : (finishAsm d pb s).nbits = s.nbits := rfl
@[simp] theorem finishAsm_src (d : Dsc) (pb : PixBuf) (s : State) : (finishAsm d pb s).src = s.src := rfl
@[simp] theorem finishAsm_cnt (d : Dsc) (pb : PixBuf) (s : State) : (finishAsm d pb s).cnt = s.cnt := rfl
@[simp] theorem finishAsm_wb (d : Dsc) (pb : PixBuf) (s : State) : (finishAsm d pb s).wb = s.wb := rfl
@[simp] theorem finishAsm_dsc (d : Dsc) (pb : PixBuf) (s : State) : (finishAsm d pb s).dsc = s.dsc := rfl
@[simp] theorem finishAsm_dscValid (d : Dsc) (pb : PixBuf) (s : State) : (finishAsm d pb s).dscValid = s.dscValid := rfl
@[simp] theorem finishAsm_geom (d : Dsc) (pb : PixBuf) (s : State) : (finishAsm d pb s).geom = s.geom := rfl
@[simp] theorem finishAsm_pal (d : Dsc) (pb : PixBuf) (s : State) : (finishAsm d pb s).pal = s.pal := rfl
@[simp] theorem finishAsm_bX (d : Dsc) (pb : PixBuf) (s : State) : (finishAsm d pb s).bX = s.bX := rfl
@[simp] theorem finishAsm_bY (d : Dsc) (pb : PixBuf) (s : State) : (finishAsm d pb s).bY = s.bY := rfl
@[simp] theorem finishAsm_bK (d : Dsc) (pb : PixBuf) (s : State) : (finishAsm d pb s).bK = s.bK := rfl
@[simp] theorem finishAsm_pb (d : Dsc) (pb : PixBuf) (s : State) : (finishAsm d pb s).pb = s.pb := rfl
@[simp] theorem finishAsm_blk (d : Dsc) (pb : PixBuf) (s : State) : (finishAsm d pb s).blk = s.blk := rfl
@[simp] theorem finishAsm_rslt (d : Dsc) (pb : PixBuf) (s : State) : (finishAsm d pb s).rslt = s.rslt := rfl
@[simp] theorem finishAsm_resBytes (d : Dsc) (pb : PixBuf) (s : State) : (finishAsm d pb s).resBytes = s.resBytes := rfl
@[simp] theorem finishAsm_resDsc (d : Dsc) (pb : PixBuf) (s : State) : (finishAsm d pb s).resDsc = some d := rfl
@[simp] theorem finishAsm_resPb (d : Dsc) (pb : PixBuf) (s : State) : (finishAsm d pb s).resPb = some pb := rfl
@[simp] theorem finishAsm_resRegion (d : Dsc) (pb : PixBuf) (s : State) : (finishAsm d pb s).resRegion = s.resRegion := rfl

end Sys2Proof.Machine
end

