-- ==== Sys2Proof/Laws/Memory.lean ====
section
/-! SUPPORT. The laws of the memories: a read after a write, and that every write keeps the canonical form; the bounds of a read. -/

namespace Sys2Proof.Machine

theorem getCell_consCell (k i : Nat) (p : Rgba) (rest : List (Nat × Rgba)) (h : p = transparent → getCell k rest = transparent) :
    getCell i (consCell k p rest) = if k = i then p else getCell i rest := by
  by_cases hp : p = transparent
  · by_cases hk : k = i
    · subst hk
      simp [consCell, hp, h hp]
    · simp [consCell, hp, hk]
  · simp [consCell, hp, getCell]

theorem getCell_below {lo hi i : Nat} {cells : List (Nat × Rgba)} (h : cellsWf lo hi cells = true) (hi' : i < lo) :
    getCell i cells = transparent := by
  induction cells generalizing lo with
  | nil => rfl
  | cons e rest ih =>
    obtain ⟨k, p⟩ := e
    simp only [cellsWf, Bool.and_eq_true, decide_eq_true_eq] at h
    obtain ⟨⟨⟨h1, _⟩, _⟩, h4⟩ := h
    have hne : k ≠ i := by omega
    simp [getCell, hne, ih h4 (by omega : i < k + 1)]

theorem getCell_setCell {lo hi : Nat} {cells : List (Nat × Rgba)} (k i : Nat) (p : Rgba) (h : cellsWf lo hi cells = true) :
    getCell i (setCell k p cells) = if k = i then p else getCell i cells := by
  induction cells generalizing lo with
  | nil => exact getCell_consCell k i p [] fun _ => rfl
  | cons e rest ih =>
    obtain ⟨j, q⟩ := e
    have hwf := h
    simp only [cellsWf, Bool.and_eq_true, decide_eq_true_eq] at h
    obtain ⟨⟨⟨h1, h2⟩, h3⟩, h4⟩ := h
    by_cases hlt : k < j
    · rw [setCell, if_pos hlt]
      refine getCell_consCell k i p _ fun _ => ?_
      have hne : j ≠ k := by omega
      simp [getCell, hne, getCell_below h4 (by omega : k < j + 1)]
    · by_cases heq : k = j
      · subst heq
        rw [setCell, if_neg hlt, if_pos rfl, getCell_consCell k i p rest fun _ => getCell_below h4 (by omega)]
        by_cases hki : k = i <;> simp [getCell, hki]
      · rw [setCell, if_neg hlt, if_neg heq]
        by_cases hji : j = i
        · subst hji
          simp [getCell, heq]
        · simp [getCell, hji, ih h4]

theorem cellsWf_weaken {lo lo' hi : Nat} {cells : List (Nat × Rgba)} (h : cellsWf lo hi cells = true) (hl : lo' ≤ lo) :
    cellsWf lo' hi cells = true := by
  cases cells with
  | nil => rfl
  | cons e rest =>
    simp only [cellsWf, Bool.and_eq_true, decide_eq_true_eq] at h ⊢
    exact ⟨⟨⟨le_trans hl h.1.1.1, h.1.1.2⟩, h.1.2⟩, h.2⟩

theorem consCell_wf {k lo hi : Nat} {p : Rgba} {rest : List (Nat × Rgba)} (hlo : lo ≤ k) (hhi : k < hi)
    (h : cellsWf (k + 1) hi rest = true) : cellsWf lo hi (consCell k p rest) = true := by
  by_cases hp : p = transparent
  · simp [consCell, hp, cellsWf_weaken h (by omega : lo ≤ k + 1)]
  · simp [consCell, hp, cellsWf, hlo, hhi, h]

theorem setCell_wf {lo hi k : Nat} {cells : List (Nat × Rgba)} (p : Rgba) (h : cellsWf lo hi cells = true) (hlo : lo ≤ k) (hhi : k < hi) :
    cellsWf lo hi (setCell k p cells) = true := by
  induction cells generalizing lo with
  | nil => exact consCell_wf hlo hhi rfl
  | cons e rest ih =>
    obtain ⟨j, q⟩ := e
    have hwf := h
    simp only [cellsWf, Bool.and_eq_true, decide_eq_true_eq] at h
    obtain ⟨⟨⟨h1, h2⟩, h3⟩, h4⟩ := h
    unfold setCell
    split_ifs with hlt heq
    · refine consCell_wf hlo hhi ?_
      simp only [cellsWf, Bool.and_eq_true, decide_eq_true_eq]
      exact ⟨⟨⟨by omega, h2⟩, h3⟩, h4⟩
    · subst heq
      exact consCell_wf hlo hhi h4
    · simp only [cellsWf, Bool.and_eq_true, decide_eq_true_eq]
      exact ⟨⟨⟨h1, h2⟩, h3⟩, ih h4 (by omega)⟩

/-- A cell index inside the buffer. -/
theorem cellIndex_lt {w h x y : Nat} (hx : x < w) (hy : y < h) : y * w + x < w * h := by
  have h1 : (y + 1) * w ≤ h * w := Nat.mul_le_mul_right w hy
  have h2 : (y + 1) * w = y * w + w := by ring
  have h3 : h * w = w * h := Nat.mul_comm h w
  omega

/-- Different coordinates have different indexes. -/
theorem cellIndex_inj {w x y x' y' : Nat} (hx : x < w) (hx' : x' < w) (h : y * w + x = y' * w + x') : x = x' ∧ y = y' := by
  have hw : 0 < w := by omega
  have e1 : (y * w + x) % w = x := by rw [Nat.mul_comm, Nat.mul_add_mod, Nat.mod_eq_of_lt hx]
  have e2 : (y' * w + x') % w = x' := by rw [Nat.mul_comm, Nat.mul_add_mod, Nat.mod_eq_of_lt hx']
  have hxx : x = x' := by rw [← e1, ← e2, h]
  subst hxx
  exact ⟨rfl, Nat.eq_of_mul_eq_mul_right hw (by omega)⟩

@[simp] theorem newPixBuf_wf (w h : Nat) : pixBufWf (newPixBuf w h) = true := rfl

@[simp] theorem pixWrite_width (pb : PixBuf) (x y : Nat) (p : Rgba) : (pixWrite pb x y p).width = pb.width := by
  unfold pixWrite; split <;> rfl

@[simp] theorem pixWrite_height (pb : PixBuf) (x y : Nat) (p : Rgba) : (pixWrite pb x y p).height = pb.height := by
  unfold pixWrite; split <;> rfl

/-- A pixel write keeps the canonical form. -/
theorem pixWrite_wf {pb : PixBuf} (x y : Nat) (p : Rgba) (h : pixBufWf pb = true) : pixBufWf (pixWrite pb x y p) = true := by
  unfold pixWrite
  split
  · rename_i hxy
    exact setCell_wf p h (Nat.zero_le _) (cellIndex_lt hxy.1 hxy.2)
  · exact h

/-- A read after a pixel write: the pixel written there, every other cell as before. -/
theorem pixRead_pixWrite {pb : PixBuf} (x y x' y' : Nat) (p : Rgba) (h : pixBufWf pb = true) :
    pixRead (pixWrite pb x y p) x' y' =
      if x = x' ∧ y = y' ∧ x < pb.width ∧ y < pb.height then some p else pixRead pb x' y' := by
  unfold pixWrite pixRead
  by_cases hxy : x < pb.width ∧ y < pb.height
  · rw [if_pos hxy]
    by_cases hin : x' < pb.width ∧ y' < pb.height
    · simp only [hin, and_self, if_true]
      rw [getCell_setCell _ _ _ h]
      by_cases he : x = x' ∧ y = y'
      · obtain ⟨rfl, rfl⟩ := he
        simp [hin]
      · have hne : y * pb.width + x ≠ y' * pb.width + x' := fun e => he (cellIndex_inj hxy.1 hin.1 e)
        have hno : ¬(x = x' ∧ y = y' ∧ x < pb.width ∧ y < pb.height) := fun e => he ⟨e.1, e.2.1⟩
        rw [if_neg hne, if_neg hno]
    · have hno : ¬(x = x' ∧ y = y' ∧ x < pb.width ∧ y < pb.height) := by
        rintro ⟨rfl, rfl, hh⟩
        exact hin hh
      rw [if_neg hno]
      simp only [if_neg hin]
  · have hno : ¬(x = x' ∧ y = y' ∧ x < pb.width ∧ y < pb.height) := fun e => hxy e.2.2
    rw [if_neg hxy, if_neg hno]

theorem placeOne_wf {pb : PixBuf} (w h x y : Nat) (r : Option Rgba) (hpb : pixBufWf pb = true) : pixBufWf (placeOne w h x y r pb) = true := by
  unfold placeOne
  split
  · exact hpb
  · split
    · exact pixWrite_wf _ _ _ hpb
    · exact hpb

@[simp] theorem placeOne_width (w h x y : Nat) (r : Option Rgba) (pb : PixBuf) : (placeOne w h x y r pb).width = pb.width := by
  unfold placeOne; split <;> [rfl; (split <;> simp)]

@[simp] theorem placeOne_height (w h x y : Nat) (r : Option Rgba) (pb : PixBuf) : (placeOne w h x y r pb).height = pb.height := by
  unfold placeOne; split <;> [rfl; (split <;> simp)]

/-- Placing a block keeps the canonical form. -/
theorem placeFrom_wf (w h bx oy bw j : Nat) (rs : List (Option Rgba)) {pb : PixBuf} (hpb : pixBufWf pb = true) :
    pixBufWf (placeFrom w h bx oy bw j rs pb) = true := by
  induction rs generalizing j pb with
  | nil => exact hpb
  | cons r rest ih => exact ih (j + 1) (placeOne_wf _ _ _ _ _ hpb)

@[simp] theorem placeFrom_width (w h bx oy bw j : Nat) (rs : List (Option Rgba)) (pb : PixBuf) :
    (placeFrom w h bx oy bw j rs pb).width = pb.width := by
  induction rs generalizing j pb with
  | nil => rfl
  | cons r rest ih => simp [placeFrom, ih]

@[simp] theorem placeFrom_height (w h bx oy bw j : Nat) (rs : List (Option Rgba)) (pb : PixBuf) :
    (placeFrom w h bx oy bw j rs pb).height = pb.height := by
  induction rs generalizing j pb with
  | nil => rfl
  | cons r rest ih => simp [placeFrom, ih]

/-- The canonical form, buffer by buffer. -/
theorem memory_wf_iff (s : State) :
    Memory.wf s = true ↔ (∀ pb, s.pb = some pb → pixBufWf pb = true) ∧ (∀ pb, s.resPb = some pb → pixBufWf pb = true) := by
  unfold Memory.wf
  cases s.pb <;> cases s.resPb <;> simp

/-- The memory after reset is in canonical form. -/
theorem reset_memory_wf : Memory.wf State.reset = true := rfl

/-- A read answers exactly when all its bytes lie in the buffer (20_memory R87). -/
theorem memRead_isSome_iff (buf : List Byte) (a n : Nat) : (memRead buf a n).isSome = true ↔ a + n ≤ buf.length := by
  unfold memRead; split <;> simp_all

theorem beNat_append (xs : List Byte) (b : Byte) : beNat (xs ++ [b]) = beNat xs * 256 + b.toNat := by
  simp [beNat]

/-- A byte sequence of length `n` has a value below `256 ^ n`. -/
theorem beNat_lt (xs : List Byte) : beNat xs < 256 ^ xs.length := by
  induction xs using List.reverseRecOn with
  | nil => simp [beNat]
  | append_singleton xs b ih =>
    rw [beNat_append]
    have := b.isLt
    simp only [List.length_append, List.length_singleton, pow_succ]
    omega

@[simp] theorem beBytes_length (n v : Nat) : (beBytes n v).length = n := by
  induction n generalizing v with
  | zero => rfl
  | succ n ih => simp [beBytes, ih]

end Sys2Proof.Machine
end

