-- ==== Sys2Proof/Laws/Ops.lean ====
section
/-! SUPPORT. One lemma for each shared operation that says everything it can do; the proofs about instructions cite these instead of unfolding. -/

namespace Sys2Proof.Machine

@[simp] theorem need_some {α : Type} (r : Reg) (a : α) : need r (some a) = .ok a := rfl

@[simp] theorem need_none {α : Type} (r : Reg) : need r (none : Option α) = .error (.faulted (.noValue r)) := rfl

theorem need_eq_ok {α : Type} {r : Reg} {o : Option α} {a : α} : need r o = .ok a ↔ o = some a := by
  cases o <;> simp

theorem readDsc_eq_ok {s : State} {d : Dsc} : readDsc s = .ok d ↔ s.dscValid = true ∧ s.dsc = some d := by
  unfold readDsc
  split
  · simp [*, need_eq_ok]
  · simp [*, faultWith]

/-- The bind of two units' answers: it succeeds exactly when both do. -/
theorem res_bind_eq_ok {α β : Type} {x : Res α} {f : α → Res β} {b : β} : (x >>= f) = .ok b ↔ ∃ a, x = .ok a ∧ f a = .ok b := by
  cases x with
  | error e =>
    constructor
    · intro h
      cases h
    · rintro ⟨_, h, _⟩
      cases h
  | ok a =>
    constructor
    · intro h
      exact ⟨a, rfl, h⟩
    · rintro ⟨_, h, h'⟩
      cases h
      exact h'

@[simp] theorem res_ok_bind {α β : Type} (a : α) (f : α → Res β) : ((.ok a : Res α) >>= f) = f a := rfl

@[simp] theorem res_error_bind {α β : Type} (e : Stop) (f : α → Res β) : ((.error e : Res α) >>= f) = .error e := rfl

@[simp] theorem settle_ok (s t : State) : settle s (.ok t) = .next t := rfl

@[simp] theorem settle_raise (s : State) (c : ErrCode) (g : Stage) (a : Int) : settle s (raise c g a) = .next (raiseError ⟨c, g, a⟩ s) := rfl

@[simp] theorem settle_raised (s : State) (e : Err) : settle s (.error (.raised e)) = .next (raiseError e s) := rfl

@[simp] theorem settle_faulted (s : State) (f : Fault) : settle s (.error (.faulted f)) = .fault f := rfl

/-- A settled unit answers a next state in two ways: its result, or the entry of an error at the state it began in. -/
theorem settle_eq_next {s t : State} {r : Res State} :
    settle s r = .next t ↔ r = .ok t ∨ ∃ e, r = .error (.raised e) ∧ t = raiseError e s := by
  rcases r with (e | f) | u
  · constructor
    · intro h
      cases h
      exact .inr ⟨e, rfl, rfl⟩
    · rintro (h | ⟨e', h, rfl⟩)
      · cases h
      · cases h
        rfl
  · constructor
    · intro h
      cases h
    · rintro (h | ⟨e', h, _⟩) <;> cases h
  · constructor
    · intro h
      cases h
      exact .inl rfl
    · rintro (h | ⟨e', h, _⟩)
      · cases h
        rfl
      · cases h

/-- Only a fault stops a settled unit; it never refuses. -/
theorem settle_ne_refused (s : State) (r : Res State) (x : Refusal) : settle s r ≠ .refused x := by
  rcases r with (e | f) | u <;> intro h <;> cases h

/-- Leaving LZ succeeds for the two operations that have the phase (45_operations R346). -/
theorem leaveLz_eq_ok {l : List Byte} {s t : State} : leaveLz l s = .ok t ↔
    (s.op = some .decompress ∧ t = { s with resBytes := some l, seq := .complete }) ∨
    (s.op = some .decode ∧ t = enterPhase .hdr { s with wb := some l }) := by
  unfold leaveLz
  rcases s.op with _ | (_ | _ | _) <;> simp [faultWith, eq_comm]

/-- Leaving LZ raises no error. -/
theorem leaveLz_not_raised (l : List Byte) (s : State) (e : Err) : leaveLz l s ≠ .error (.raised e) := by
  unfold leaveLz
  rcases s.op with _ | (_ | _ | _) <;> simp [faultWith]

/-- Leaving HDR succeeds for the two operations that have the phase (45_operations R347). -/
theorem leaveHdr_eq_ok {d : Dsc} {s t : State} : leaveHdr d s = .ok t ↔
    (s.op = some .parseHeader ∧
      t = { s with resRegion := some (regionSize s.params d), resDsc := some d, seq := .complete }) ∨
    (s.op = some .decode ∧ t = enterPhase .pal { s with resRegion := some (regionSize s.params d) }) := by
  unfold leaveHdr
  rcases s.op with _ | (_ | _ | _) <;> simp [faultWith, eq_comm]

/-- Leaving HDR raises no error. -/
theorem leaveHdr_not_raised (d : Dsc) (s : State) (e : Err) : leaveHdr d s ≠ .error (.raised e) := by
  unfold leaveHdr
  rcases s.op with _ | (_ | _ | _) <;> simp [faultWith]

/-- After a token (44_lz_stream R323). -/
theorem afterToken_eq_ok {s t : State} : afterToken s = .ok t ↔
    ∃ f n, s.flags = some f ∧ s.nbits = some n ∧ t = { s with flags := some (shiftFlags f), nbits := some (countBits n) } := by
  unfold afterToken
  cases s.flags <;> cases s.nbits <;> simp [eq_comm]

/-- After a token nothing is raised. -/
theorem afterToken_not_raised (s : State) (e : Err) : afterToken s ≠ .error (.raised e) := by
  unfold afterToken
  cases s.flags <;> cases s.nbits <;> simp

/-- The overrun rule's answers (44_lz_stream R322). -/
theorem overrun_eq_ok {mode : Overrun} {m dsize n k : Nat} : overrun mode m dsize n = .ok k ↔
    (m + n ≤ dsize ∧ k = n) ∨ (dsize < m + n ∧ mode = .truncate ∧ k = dsize - m) ∨ (dsize < m + n ∧ mode = .extend ∧ k = n) := by
  unfold overrun
  split
  · have : ¬dsize < m + n := by omega
    simp [*, eq_comm]
  · have : dsize < m + n := by omega
    cases mode <;> simp [*, raise, eq_comm]

/-- Running a format: BLK holds a whole window, an indexed format has a palette, and only the results are written (42_block_decoder R211). -/
theorem runFormat_eq_ok {f : PixFmt} {s t : State} : runFormat f s = .ok t ↔
    ∃ blk pal, s.blk = some blk ∧ blockBytes f ≤ blk.length ∧ (isIndexed f = true → s.pal = some pal) ∧ (isIndexed f = false → pal = []) ∧
      t = { s with rslt := some (blockDecode s.params f blk pal) } := by
  unfold runFormat
  rcases hb : s.blk with _ | blk
  · simp
  · by_cases hl : blk.length < blockBytes f
    · have : ¬blockBytes f ≤ blk.length := by omega
      simp [hl, faultWith]
    · have hl' : blockBytes f ≤ blk.length := by omega
      cases hi : isIndexed f
      · simp [hl, hl', eq_comm]
      · rcases hp : s.pal with _ | pal <;> simp [hl, hl', eq_comm]

/-- Running a format raises no error (42_block_decoder R211). -/
theorem runFormat_not_raised (f : PixFmt) (s : State) (e : Err) : runFormat f s ≠ .error (.raised e) := by
  unfold runFormat
  rcases s.blk with _ | blk
  · simp
  · by_cases hl : blk.length < blockBytes f
    · simp [hl, faultWith]
    · cases hi : isIndexed f
      · simp [hl]
      · rcases s.pal with _ | pal <;> simp [hl]

/-- The next palette entry: PAL holds a value, and only PAL is written (41_palette R184, 10_state R77). -/
theorem pushEntry_eq_ok {c : Rgba} {s t : State} : pushEntry c s = .ok t ↔
    ∃ pal, s.pal = some pal ∧ t = { s with pal := some (pal ++ [c]) } := by
  unfold pushEntry
  cases s.pal <;> simp [eq_comm]

/-- The next palette entry raises no error. -/
theorem pushEntry_not_raised (c : Rgba) (s : State) (e : Err) : pushEntry c s ≠ .error (.raised e) := by
  unfold pushEntry
  cases s.pal <;> simp

/-- Every routine returns `BW * BH` results (42_block_decoder R263). -/
theorem blockDecode_length (p : Params) (f : PixFmt) (blk : List Byte) (pal : List Rgba) :
    (blockDecode p f blk pal).length = blockWidth f * blockHeight f := by
  cases f <;> simp [blockDecode, decodeI4, decodeI8, decodeIA4, decodeIA8, decodeRGB565, decodeRGB5A3, decodeRGBA32, decodeC4, decodeC8,
    decodeC14X2, decodeCMPR, blockWidth, blockHeight]

/-- The copy loop makes the output longer by the number of bytes copied. -/
@[simp] theorem copyBytes_length (n src : Nat) (out : List Byte) : (copyBytes n src out).length = out.length + n := by
  induction n generalizing src out with
  | zero => rfl
  | succ n ih =>
    simp only [copyBytes, ih, outPush, List.length_append, List.length_singleton]
    omega

@[simp] theorem decode_token (p : Params) (lit : Bool) (bs : List Byte) : decode p (.token lit) bs = decodeToken lit bs := by
  simp [decode]

/-- What is fetched for a token depends on the bytes from IP on: a token, or LzTruncated. -/
theorem fetchToken_cases (p : Params) (lit : Bool) (inp : List Byte) (ip : Nat) :
    (∃ i rest, decodeToken lit (inp.drop ip) = some (i, rest) ∧ fetchToken p lit inp ip = .ok i) ∨
    (decodeToken lit (inp.drop ip) = none ∧ fetchToken p lit inp ip = lzTruncated ip inp.length) := by
  unfold fetchToken
  rw [decode_token]
  rcases h : decodeToken lit (inp.drop ip) with _ | ⟨i, rest⟩
  · exact .inr ⟨rfl, rfl⟩
  · exact .inl ⟨i, rest, rfl, rfl⟩

/-- One step does what the sequencer fetched, or enters the error the fetch raised, or faults. -/
theorem step_cases (s : State) :
    (∃ todo, fetch s = .ok todo ∧ step s = perform todo s) ∨
    (∃ e, fetch s = .error (.raised e) ∧ step s = .next (raiseError e s)) ∨
    (∃ f, fetch s = .error (.faulted f) ∧ step s = .fault f) := by
  unfold step advance
  rcases fetch s with (e | f) | todo
  · exact .inr (.inl ⟨e, rfl, rfl⟩)
  · exact .inr (.inr ⟨f, rfl, rfl⟩)
  · exact .inl ⟨todo, rfl, rfl⟩

end Sys2Proof.Machine
end

