-- ==== Sys2Proof/Laws/PerInstr.lean ====
section
/-! SUPPORT. The per-instruction family EncodedBytes: how many bytes each instruction's encoding has (30_encoding R121 to R130). -/

namespace Sys2Proof.Laws.EncodedBytes

/-- The number of bytes an instruction has in its context; a request and a unit step have none. -/
def byteLength : Instr → Nat
  | .lzCtrl _ | .lzLit _ => 1
  | .lzRefs _ _ => 2
  | .lzRefl _ _ => 3
  | .fmtI4 | .fmtI8 | .fmtIA4 | .fmtIA8 | .fmtRGB565 | .fmtRGB5A3 | .fmtRGBA32 | .fmtC4 | .fmtC8 | .fmtC14X2 | .fmtCMPR => 1
  | .palfmtIA8 _ | .palfmtRGB565 _ | .palfmtRGB5A3 _ => 2
  | .opDecompress _ _ | .opParseHeader _ _ | .opDecode _ _ => 0
  | .lzDetect | .hdrParse | .palDecode | .asmStart | .asmBlock => 0

/-- Whatever the parameters, an encoding of the instruction has that many bytes. -/
def Statement (i : Instr) : Prop := ∀ p c bs, encode p i = some (c, bs) → bs.length = byteLength i

theorem encodeFmt_length {p : Params} {f : PixFmt} {c : Ctx} {bs : List Byte} (h : encodeFmt p f = some (c, bs)) : bs.length = 1 := by
  unfold encodeFmt at h
  rcases hc : codeFor p.fmtCode f with _ | k <;> simp [hc] at h
  simp [← h.2]

theorem encodePal_length {p : Params} {f : PalFmt} {e : Half} {c : Ctx} {bs : List Byte} (h : encodePal p f e = some (c, bs)) :
    bs.length = 2 := by
  unfold encodePal at h
  rcases hc : codeFor p.palCode f with _ | k <;> simp [hc] at h
  simp [← h.2]

theorem lzCtrl (f : Byte) : Statement (.lzCtrl f) := by
  intro p c bs h
  cases h
  rfl

theorem lzLit (b : Byte) : Statement (.lzLit b) := by
  intro p c bs h
  cases h
  rfl

theorem lzRefs (n : BitVec 4) (d : BitVec 12) : Statement (.lzRefs n d) := by
  intro p c bs h
  cases h
  rfl

theorem lzRefl (d : BitVec 12) (m : Byte) : Statement (.lzRefl d m) := by
  intro p c bs h
  cases h
  rfl

theorem fmtI4 : Statement (.fmtI4) := fun _ _ _ h => encodeFmt_length h

theorem fmtI8 : Statement (.fmtI8) := fun _ _ _ h => encodeFmt_length h

theorem fmtIA4 : Statement (.fmtIA4) := fun _ _ _ h => encodeFmt_length h

theorem fmtIA8 : Statement (.fmtIA8) := fun _ _ _ h => encodeFmt_length h

theorem fmtRGB565 : Statement (.fmtRGB565) := fun _ _ _ h => encodeFmt_length h

theorem fmtRGB5A3 : Statement (.fmtRGB5A3) := fun _ _ _ h => encodeFmt_length h

theorem fmtRGBA32 : Statement (.fmtRGBA32) := fun _ _ _ h => encodeFmt_length h

theorem fmtC4 : Statement (.fmtC4) := fun _ _ _ h => encodeFmt_length h

theorem fmtC8 : Statement (.fmtC8) := fun _ _ _ h => encodeFmt_length h

theorem fmtC14X2 : Statement (.fmtC14X2) := fun _ _ _ h => encodeFmt_length h

theorem fmtCMPR : Statement (.fmtCMPR) := fun _ _ _ h => encodeFmt_length h

theorem palfmtIA8 (e : Half) : Statement (.palfmtIA8 e) := fun _ _ _ h => encodePal_length h

theorem palfmtRGB565 (e : Half) : Statement (.palfmtRGB565 e) := fun _ _ _ h => encodePal_length h

theorem palfmtRGB5A3 (e : Half) : Statement (.palfmtRGB5A3 e) := fun _ _ _ h => encodePal_length h

theorem opDecompress (inp : List Byte) (hb : Word) : Statement (.opDecompress inp hb) := by
  intro p c bs h
  cases h
  rfl

theorem opParseHeader (inp : List Byte) (hb : Word) : Statement (.opParseHeader inp hb) := by
  intro p c bs h
  cases h
  rfl

theorem opDecode (inp : List Byte) (hb : Word) : Statement (.opDecode inp hb) := by
  intro p c bs h
  cases h
  rfl

theorem lzDetect : Statement (.lzDetect) := by
  intro p c bs h
  cases h
  rfl

theorem hdrParse : Statement (.hdrParse) := by
  intro p c bs h
  cases h
  rfl

theorem palDecode : Statement (.palDecode) := by
  intro p c bs h
  cases h
  rfl

theorem asmStart : Statement (.asmStart) := by
  intro p c bs h
  cases h
  rfl

theorem asmBlock : Statement (.asmBlock) := by
  intro p c bs h
  cases h
  rfl

end Sys2Proof.Laws.EncodedBytes
end

