-- ==== Sys2Proof/Laws/Step.lean ====
section
/-! SUPPORT. What the sequencer fetches in each situation, said once: the proofs about step cite these instead of unfolding fetch. -/

namespace Sys2Proof.Machine

@[simp] theorem raise_bind {α β : Type} (c : ErrCode) (g : Stage) (a : Int) (f : α → Res β) :
    ((raise c g a : Res α) >>= f) = raise c g a := rfl

@[simp] theorem faultWith_bind {α β : Type} (r : Fault) (f : α → Res β) : ((faultWith r : Res α) >>= f) = faultWith r := rfl

/-- A step is what was fetched, performed. -/
theorem step_of_fetch {s : State} {todo : Todo} (h : fetch s = .ok todo) : step s = perform todo s := by
  simp [step, advance, h]

/-- A fetch that raises (44_lz_stream R312) is the step's error. -/
theorem step_of_fetch_raise {s : State} {c : ErrCode} {g : Stage} {a : Int} (h : fetch s = raise c g a) :
    step s = .next (raiseError ⟨c, g, a⟩ s) := by
  simp [step, advance, h, raise]

/-- Outside an operation the host's requests are looked at (70_reset R411). -/
theorem fetch_outside {s : State} (h : busyPhase s.phase = false) : fetch s = fetchRequest s := by
  unfold fetch
  rcases hp : s.phase <;> simp_all [busyPhase]

/-- Completion is next (45_operations R349). -/
theorem fetch_complete {s : State} (h : busyPhase s.phase = true) (hs : s.seq = .complete) : fetch s = .ok .complete := by
  unfold fetch
  rcases hp : s.phase <;> simp_all [busyPhase]

/-- Inside the LZ loop (44_lz_stream R306). -/
theorem fetch_loop {s : State} (h : s.phase = .lz) (hs : s.seq = .loop) : fetch s = fetchLz s := by
  simp [fetch, h, hs]

/-- A unit step (45_operations R345). -/
theorem fetch_of_unit {s : State} {i : Instr} (h : decodeSequencer s.phase s.seq = some i) : fetch s = .ok (.one i) := by
  rcases hp : s.phase <;> rcases hs : s.seq <;> simp_all [decodeSequencer, fetch, fetchUnit, decode]

/-- No unit step: the phase has no such step. -/
theorem fetch_of_no_unit {s : State} (hb : busyPhase s.phase = true) (hc : s.seq ≠ .complete) (hl : ¬(s.phase = .lz ∧ s.seq = .loop))
    (h : decodeSequencer s.phase s.seq = none) : fetch s = faultWith .phaseOrder := by
  rcases hp : s.phase <;> rcases hs : s.seq <;> simp_all [decodeSequencer, fetch, fetchUnit, decode, busyPhase]

/-- What a token can be (30_encoding R130): three forms, each well-formed. -/
theorem decodeToken_eq_some {lit : Bool} {bs rest : List Byte} {i : Instr} (h : decodeToken lit bs = some (i, rest)) :
    (∃ b, i = .lzLit b) ∨ (∃ n d, i = .lzRefs n d ∧ n ≠ 0) ∨ ∃ d m, i = .lzRefl d m := by
  unfold decodeToken at h
  split at h
  · simp at h
    exact .inl ⟨_, h.1.symm⟩
  · split at h
    · split at h <;> simp at h
      exact .inr (.inr ⟨_, _, h.1.symm⟩)
    · simp at h
      exact .inr (.inl ⟨_, _, h.1.symm, ‹_›⟩)
  · cases h
  · cases h

end Sys2Proof.Machine
end

