-- ==== Sys2Proof/Tests/Slice0.lean ====
section
/-! SUPPORT. Tests of single steps and of decoding, with expected values from spec/95_test_vectors.md or worked out by hand from the rules, and
for each statement with hypotheses a witness that meets them. -/

namespace Sys2Proof.Tests

open Sys2Proof Sys2Proof.Machine

/-! ## Helpers -/

/-- The next state, where there is one. -/
def after : Host.Outcome State Fault Refusal → Option State
  | .next t => some t
  | .fault _ => none
  | .refused _ => none

/-- The fault, where there is one. -/
def faultOf : Host.Outcome State Fault Refusal → Option Fault
  | .fault f => some f
  | .next _ => none
  | .refused _ => none

/-- The refusal, where there is one. -/
def refusalOf : Host.Outcome State Fault Refusal → Option Refusal
  | .refused r => some r
  | .next _ => none
  | .fault _ => none

/-- A field of the next state. -/
def field {α : Type} (f : State → α) (o : Host.Outcome State Fault Refusal) : Option α := (after o).map f

/-- In an operation. -/
def busyIn (op : OpCode) (ph : Phase) (sq : Seq) : State :=
  { State.reset with op := some op, phase := ph, seq := sq, hb := some 0, status := ⟨.busy, .none, .none, none⟩ }

/-- A stream that declares `size` bytes (the notation `HDR s` of 95_test_vectors 2.7). -/
def streamHeader (size : Nat) : List Byte := [0x59, 0x61, 0x7A, 0x30] ++ beBytes 4 size ++ List.replicate 8 0

/-- Inside the LZ loop at the payload's first byte. -/
def lzAt (size : Nat) (payload out : List Byte) (flags : Byte) (nbits : Nat) : State :=
  { busyIn .decompress .lz .loop with
    inp := some (streamHeader size ++ payload)
    ip := some 16
    out := some out
    dsize := some (BitVec.ofNat 32 size)
    flags := some flags
    nbits := some nbits }

/-- A window padded with zeros. -/
def pad (n : Nat) (bs : List Byte) : List Byte := bs ++ List.replicate (n - bs.length) 0

/-- A block window and a palette. -/
def blockState (n : Nat) (bs : List Byte) (pal : List Rgba) : State :=
  { busyIn .decode .asm .loop with blk := some (pad n bs), pal := some pal }

/-- The palette of V-C4-1. -/
def pal3 : List Rgba := [⟨1, 1, 1, 1⟩, ⟨2, 2, 2, 2⟩, ⟨3, 3, 3, 3⟩]

/-- The header `H` of 95_test_vectors 2.4. -/
def headerH : List Byte :=
  [0x00, 0x00, 0x00, 0x04, 0x00, 0x04, 0x00, 0x00, 0x00, 0x00, 0x00, 0x00, 0x00, 0x00, 0x00, 0x00] ++
  [0x00, 0x00, 0x00, 0x00, 0x01, 0x01, 0x00, 0x00, 0x01, 0x00, 0x00, 0x00, 0x00, 0x00, 0x00, 0x20]

/-- The descriptor of `H` (V-HDR-1). -/
def dscH : Dsc where
  formatRaw := 0
  format := .i4
  alpha := 0
  width := 4
  height := 4
  wrapS := 0
  wrapT := 0
  palEn := 0
  palFmtRaw := 0
  palFmt := .ia8
  colorCount := 0
  palOff := 0
  minFilter := 1
  magFilter := 1
  minLod := 0
  maxLod := 0
  mipCount := 1
  lodBias := 0
  imgOff := 0x20

/-- A C8 texture of 9 x 4 pixels with two RGB565 colours at offset 0 and its two blocks at offset 4. -/
def dscC8 : Dsc :=
  { dscH with formatRaw := 9, format := .c8, width := 9, height := 4, palFmtRaw := 1, palFmt := .rgb565, colorCount := 2, imgOff := 4 }

/-- Before HDR.PARSE. -/
def hdrState (op : OpCode) (wb : List Byte) : State := { busyIn op .hdr .first with wb := some wb }

/-- After HDR.PARSE of a DECODE. -/
def parsed (d : Dsc) (wb : List Byte) (ph : Phase) (sq : Seq) : State :=
  { busyIn .decode ph sq with
    wb := some wb, dsc := some d, dscValid := true, geom := some (geometryOf d), resRegion := some (regionSize Params.default d) }

/-- The palette region and the blocks of `dscC8`: red and blue; block 0 all index 1, block 1 starts with index 0 and an index too large. -/
def bytesC8 : List Byte := [0xF8, 0x00, 0x00, 0x1F] ++ List.replicate 32 1 ++ ([0, 5] ++ List.replicate 30 2)

/-- Inside the walk of `dscC8`. -/
def walkC8 (k bx : Nat) : State :=
  { parsed dscC8 bytesC8 .asm .loop with
    pal := some [⟨255, 0, 0, 255⟩, ⟨0, 0, 255, 255⟩], bK := some k, bX := some bx, bY := some 0, pb := some (newPixBuf 9 4) }

/-! ## Well-formedness -/

/-- A short back-reference whose length nibble is 0 is ill-formed (30_encoding R128): those bytes are a long one. -/
theorem test_wellFormed_refuses_zero_nibble : (Instr.lzRefs 0 5).wellFormed = false := by decide

theorem test_wellFormed_accepts : (Instr.lzRefs 1 0).wellFormed = true ∧ (Instr.lzRefs 15 4095).wellFormed = true ∧
    (Instr.lzRefl 0 0).wellFormed = true := by decide

/-! ## Decoding: words written out from 30_encoding -/

/-- R126: eight control bits. -/
theorem test_decode_lzCtrl : decode Params.default .control [0b10000000, 0xAB] = some (.lzCtrl 0x80, [0xAB]) := by decide

/-- R127: one byte after a control bit 1. -/
theorem test_decode_lzLit : decode Params.default (.token true) [0x0F, 0x01] = some (.lzLit 0x0F, [0x01]) := by decide

/-- R128: `NNNN DDDD | DDDDDDDD` with N = 5, D = 0x301. -/
theorem test_decode_lzRefs : decode Params.default (.token false) [0b01010011, 0b00000001, 0x77] = some (.lzRefs 5 0x301, [0x77]) := by decide

/-- R129: `0000 DDDD | DDDDDDDD | MMMMMMMM` with D = 0xFFF, M = 0xFF. -/
theorem test_decode_lzRefl : decode Params.default (.token false) [0b00001111, 0xFF, 0xFF] = some (.lzRefl 0xFFF 0xFF, []) := by decide

/-- R121: the codes of the 11 pixel formats. -/
theorem test_decode_pixel_formats :
    [0x00, 0x01, 0x02, 0x03, 0x04, 0x05, 0x06, 0x08, 0x09, 0x0A, 0x0E].map (fun c => decode Params.default .pixelFormat [c]) =
    [.fmtI4, .fmtI8, .fmtIA4, .fmtIA8, .fmtRGB565, .fmtRGB5A3, .fmtRGBA32, .fmtC4, .fmtC8, .fmtC14X2, .fmtCMPR].map
      (fun i => some (i, [])) := by decide

/-- R122: the codes of the 3 palette formats, with an entry read high byte first (R82). -/
theorem test_decode_palette_formats :
    decode Params.default (.paletteEntry 0x00) [0x80, 0xFF] = some (.palfmtIA8 0x80FF, []) ∧
    decode Params.default (.paletteEntry 0x01) [0xF8, 0x00] = some (.palfmtRGB565 0xF800, []) ∧
    decode Params.default (.paletteEntry 0x02) [0x3A, 0x5C] = some (.palfmtRGB5A3 0x3A5C, []) := by decide

/-- R124: the codes of the 3 operations. -/
theorem test_decode_operations :
    decode Params.default (.request ⟨1, [9], 0⟩) [] = some (.opDecompress [9] 0, []) ∧
    decode Params.default (.request ⟨2, [9], 4⟩) [] = some (.opParseHeader [9] 4, []) ∧
    decode Params.default (.request ⟨3, [9], 4⟩) [] = some (.opDecode [9] 4, []) ∧
    decode Params.default (.request ⟨0, [9], 4⟩) [] = none ∧ decode Params.default (.request ⟨4, [9], 4⟩) [] = none := by decide

/-- 45_operations R345: the unit steps, by phase. -/
theorem test_decode_units :
    decode Params.default (.sequencer .lz .first) [] = some (.lzDetect, []) ∧
    decode Params.default (.sequencer .hdr .first) [] = some (.hdrParse, []) ∧
    decode Params.default (.sequencer .pal .first) [] = some (.palDecode, []) ∧
    decode Params.default (.sequencer .asm .first) [] = some (.asmStart, []) ∧
    decode Params.default (.sequencer .asm .loop) [] = some (.asmBlock, []) := by decide

/-- R123: an unmapped code; and bytes that run out are no token (44_lz_stream R312). -/
theorem test_decode_refuses :
    decode Params.default .pixelFormat [0x07] = none ∧ decode Params.default (.paletteEntry 0x03) [0, 0] = none ∧
    decode Params.default (.token false) [0x30] = none ∧ decode Params.default (.token false) [0x00, 0x00] = none ∧
    decode Params.default (.token true) [] = none ∧ decode Params.default .control [] = none := by decide

/-- V-HDR-1: the fields of `H`. -/
theorem test_decodeHeader_H : decodeHeader Params.default headerH = .ok dscH := by decide

/-- Table words: bit 0 is the least significant bit of the word, its high byte first in the stream (20_memory R82). -/
theorem test_decodeTableWord :
    decodeTableWord 16 0x5301 = some (.lzRefs 5 0x301) ∧ decodeTableWord 24 0x0FFFFF = some (.lzRefl 0xFFF 0xFF) ∧
    decodeTableWord 8 0x0E = some .fmtCMPR ∧ decodeTableWord 8 0xEF = some (.lzCtrl 0xEF) := by decide

/-! ## Reset and memory -/

/-- 70_reset R410. -/
theorem test_reset_status : hostStatus State.reset = (0, 0, 0) ∧ State.reset.phase = .idle ∧ Memory.wf State.reset = true := by decide

/-- Writing the transparent pixel removes the entry (10_state R60). -/
theorem test_pixWrite_canonical :
    pixWrite (pixWrite (newPixBuf 2 2) 1 0 ⟨1, 2, 3, 4⟩) 1 0 ⟨0, 0, 0, 0⟩ = newPixBuf 2 2 ∧
    pixRead (pixWrite (newPixBuf 2 2) 1 1 ⟨1, 2, 3, 4⟩) 1 1 = some ⟨1, 2, 3, 4⟩ ∧ pixRead (newPixBuf 2 2) 2 0 = none := by decide

/-- 70_reset R430, U15: a register without a value cannot be read. -/
theorem test_read_without_value_faults :
    faultOf (exec (.lzLit 1) State.reset) = some (.noValue .ip) ∧ faultOf (exec .palDecode State.reset) = some (.noValue .dsc) ∧
    faultOf (exec (.palfmtIA8 1) State.reset) = some (.noValue .pal) ∧
    faultOf (exec .fmtRGBA32 (blockState 32 [] [])) = some (.noValue .blk) := by decide

/-! ## One step of each instruction -/

/-- P1, step 1: `80 AB` loads the control byte and appends `AB`. -/
theorem test_step_control_and_literal :
    field (fun t => (t.out, t.flags, t.nbits, t.ip)) (step (lzAt 6 [0x80, 0xAB, 0x30, 0x00] [] 0x55 0)) =
      some (some [0xAB], some 0x00, some 7, some 18) := by decide

/-- LZ.CTRL alone (44_lz_stream R310). -/
theorem test_lzCtrl :
    field (fun t => (t.flags, t.nbits, t.ip)) (exec (.lzCtrl 0xEF) (lzAt 6 [0xEF] [] 0 0)) = some (some 0xEF, some 8, some 17) := by decide

/-- LZ.LIT alone: FLAGS 0xC1 becomes 0x82 (44_lz_stream R311, R323). -/
theorem test_lzLit :
    field (fun t => (t.out, t.flags, t.nbits)) (exec (.lzLit 7) (lzAt 6 [7] [1] 0xC1 8)) = some (some [1, 7], some 0x82, some 7) := by
  decide

/-- V-SRC-5, P1 step 2: distance 0 and length 5 repeat the last byte. -/
theorem test_lzRefs_run :
    field (fun t => (t.out, t.nbits, t.ip, t.src, t.cnt)) (step (lzAt 6 [0x30, 0x00] [0xAB] 0x00 7)) =
      some (some [0xAB, 0xAB, 0xAB, 0xAB, 0xAB, 0xAB], some 6, some 18, some 5, some 0) := by decide

/-- V-LZ-8: a back-reference before the start. -/
theorem test_lzRefs_before_start :
    field (fun t => (t.status, t.resBytes, t.ip)) (exec (.lzRefs 1 0) (lzAt 4 [0x10, 0x00] [] 0 8)) =
      some (⟨.error, .decompress, .lzBackref, some (-1)⟩, none, some 16) := by decide

/-- V-LZ-4: the long form with byte3 0 copies 18 bytes. -/
theorem test_lzRefl_shortest :
    field (fun t => (t.out, t.ip)) (step (lzAt 19 [0x00, 0x00, 0x00] [0x51] 0x00 7)) = some (some (List.replicate 19 0x51), some 19) := by
  decide

/-- V-LZ-13: the three overrun modes, here with 3 bytes left and length 5. -/
theorem test_overrun_modes :
    overrun .fault 1 4 5 = .error (.raised ⟨.lzOverrun, .decompress, 6⟩) ∧ overrun .truncate 1 4 5 = .ok 3 ∧
    overrun .extend 1 4 5 = .ok 5 ∧ overrun .fault 1 6 5 = .ok 5 := ⟨rfl, rfl, rfl, rfl⟩

/-- P1: LZ.DETECT of a tagged input runs LZ.INIT. -/
theorem test_lzDetect_tagged :
    field (fun t => (t.dsize, t.ip, t.out, t.nbits))
      (exec .lzDetect { busyIn .decompress .lz .first with inp := some (streamHeader 6) }) =
      some (some 6, some 16, some [], some 0) := by decide

/-- V-SRC-6: three bytes of the tag are untagged and pass through. -/
theorem test_lzDetect_untagged :
    field (fun t => (t.resBytes, t.seq)) (exec .lzDetect { busyIn .decompress .lz .first with inp := some [0x59, 0x61, 0x7A] }) =
      some (some [0x59, 0x61, 0x7A], .complete) := by decide

/-- V-I4-1. -/
theorem test_fmtI4 :
    field (fun t => t.rslt.map (List.take 4)) (exec .fmtI4 (blockState 32 [0x0F, 0xF0, 0x00, 0xFF] [])) =
      some (some [some ⟨0, 0, 0, 0⟩, some ⟨255, 255, 255, 255⟩, some ⟨255, 255, 255, 255⟩, some ⟨0, 0, 0, 0⟩]) := by decide

/-- V-I8-1, first bytes. -/
theorem test_fmtI8 :
    field (fun t => t.rslt.map (List.take 2)) (exec .fmtI8 (blockState 32 [0x00, 0x08] [])) =
      some (some [some ⟨0, 0, 0, 0⟩, some ⟨8, 8, 8, 8⟩]) := by decide

/-- V-IA4-1. -/
theorem test_fmtIA4 :
    field (fun t => t.rslt.map (List.take 3)) (exec .fmtIA4 (blockState 32 [0xF0, 0x0F, 0x8C] [])) =
      some (some [some ⟨0, 0, 0, 255⟩, some ⟨255, 255, 255, 0⟩, some ⟨204, 204, 204, 136⟩]) := by decide

/-- V-IA8-1. -/
theorem test_fmtIA8 :
    field (fun t => t.rslt.map (List.take 2)) (exec .fmtIA8 (blockState 32 [0x80, 0xFF, 0x00, 0xC0] [])) =
      some (some [some ⟨255, 255, 255, 128⟩, some ⟨192, 192, 192, 0⟩]) := by decide

/-- V-565-1. -/
theorem test_fmtRGB565 :
    field (fun t => t.rslt.map (List.take 5)) (exec .fmtRGB565 (blockState 32 [0xF8, 0x00, 0x07, 0xE0, 0x00, 0x1F, 0xFF, 0xFF] [])) =
      some (some [some ⟨255, 0, 0, 255⟩, some ⟨0, 255, 0, 255⟩, some ⟨0, 0, 255, 255⟩, some ⟨255, 255, 255, 255⟩, some ⟨0, 0, 0, 255⟩]) := by
  decide

/-- V-5A3-1. -/
theorem test_fmtRGB5A3 :
    field (fun t => t.rslt.map (List.take 5)) (exec .fmtRGB5A3 (blockState 32 [0x3A, 0x5C, 0xA9, 0x5F, 0x80, 0x00, 0x7F, 0xFF] [])) =
      some (some [some ⟨170, 85, 204, 109⟩, some ⟨82, 82, 255, 255⟩, some ⟨0, 0, 0, 255⟩, some ⟨255, 255, 255, 255⟩, some ⟨0, 0, 0, 0⟩]) := by
  decide

/-- V-RGBA32-1. -/
theorem test_fmtRGBA32 :
    field (fun t => t.rslt.map (List.take 2))
      (exec .fmtRGBA32 (blockState 64 ([0x11, 0x22, 0x33, 0x44] ++ List.replicate 28 0 ++ [0x55, 0x66, 0x77, 0x88]) [])) =
      some (some [some ⟨34, 85, 102, 17⟩, some ⟨68, 119, 136, 51⟩]) := by decide

/-- V-C4-1. -/
theorem test_fmtC4 :
    field (fun t => t.rslt.map (List.take 4)) (exec .fmtC4 (blockState 32 [0x01, 0x2F] pal3)) =
      some (some [some ⟨1, 1, 1, 1⟩, some ⟨2, 2, 2, 2⟩, some ⟨3, 3, 3, 3⟩, none]) := by decide

/-- V-C8-1. -/
theorem test_fmtC8 :
    field (fun t => t.rslt.map (List.take 4)) (exec .fmtC8 (blockState 32 [0x02, 0x03, 0xFF] pal3)) =
      some (some [some ⟨3, 3, 3, 3⟩, none, none, some ⟨1, 1, 1, 1⟩]) := by decide

/-- V-C14-1. -/
theorem test_fmtC14X2 :
    field (fun t => t.rslt.map (List.take 3)) (exec .fmtC14X2 (blockState 32 [0xC0, 0x02, 0x40, 0x03, 0x00, 0x01] pal3)) =
      some (some [some ⟨3, 3, 3, 3⟩, none, some ⟨2, 2, 2, 2⟩]) := by decide

/-- V-CMPR-1, row 0. -/
theorem test_fmtCMPR :
    field (fun t => t.rslt.map (List.take 8)) (exec .fmtCMPR (blockState 32 ([0xFF, 0xFF, 0x00, 0x00, 0x1B, 0x1B, 0x1B, 0x1B] ++
      [0x00, 0x00, 0xFF, 0xFF, 0xE4, 0xE4, 0xE4, 0xE4]) [])) =
      some (some [some ⟨255, 255, 255, 255⟩, some ⟨0, 0, 0, 255⟩, some ⟨170, 170, 170, 255⟩, some ⟨85, 85, 85, 255⟩,
        some ⟨0, 0, 0, 0⟩, some ⟨127, 127, 127, 255⟩, some ⟨255, 255, 255, 255⟩, some ⟨0, 0, 0, 255⟩]) := by decide

/-- V-CMPR-1, row 7: sub-blocks 2 and 3. -/
theorem test_fmtCMPR_bottom :
    field (fun t => t.rslt.map (List.drop 59)) (exec .fmtCMPR (blockState 32 (List.replicate 16 0 ++
      [0xF8, 0x00, 0xF8, 0x00, 0xFF, 0xFF, 0xFF, 0xFF] ++ [0xF8, 0x00, 0x00, 0x1F, 0x00, 0x00, 0x00, 0x55]) [])) =
      some (some [some ⟨0, 0, 0, 0⟩, some ⟨0, 0, 255, 255⟩, some ⟨0, 0, 255, 255⟩, some ⟨0, 0, 255, 255⟩, some ⟨0, 0, 255, 255⟩]) := by
  decide

/-- V-PAL-2, V-PAL-3, V-PAL-4, entry by entry. -/
theorem test_palfmt :
    field (fun t => t.pal) (exec (.palfmtRGB565 0xF800) (blockState 32 [] [])) = some (some [⟨255, 0, 0, 255⟩]) ∧
    field (fun t => t.pal) (exec (.palfmtIA8 0x80FF) (blockState 32 [] [])) = some (some [⟨255, 255, 255, 128⟩]) ∧
    field (fun t => t.pal) (exec (.palfmtRGB5A3 0x3A5C) (blockState 32 [] [])) = some (some [⟨170, 85, 204, 109⟩]) := by decide

/-- 45_operations R341: Start, and no move while BUSY (70_reset R430). -/
theorem test_operations :
    field (fun t => (t.phase, t.status.state, t.op)) (exec (.opDecompress [1] 0) State.reset) = some (.lz, .busy, some .decompress) ∧
    field (fun t => (t.phase, t.wb, t.op)) (exec (.opParseHeader [1] 0) State.reset) = some (.hdr, some [1], some .parseHeader) ∧
    field (fun t => (t.phase, t.wb, t.op)) (exec (.opDecode [1] 0) State.reset) = some (.lz, none, some .decode) ∧
    refusalOf (exec (.opDecode [1] 0) (busyIn .decode .lz .first)) = some .busy := by decide

/-- V-HDR-1. -/
theorem test_hdrParse :
    field (fun t => (t.dsc, t.geom, t.resRegion, t.resDsc)) (exec .hdrParse (hdrState .parseHeader headerH)) =
      some (some dscH, some ⟨8, 8, 32, 1, 1, 1⟩, some 32, some dscH) := by decide

/-- V-HDR-5: the format code is checked before the palette-format code. -/
theorem test_hdrParse_error_order :
    field (fun t => (t.status, t.dsc, t.dscValid)) (exec .hdrParse (hdrState .parseHeader ((headerH.set 0 7).set 9 3))) =
      some (⟨.error, .header, .unknownFormat, some 7⟩, none, false) := by decide

/-- V-PAL-2, as the palette of `dscC8`. -/
theorem test_palDecode :
    field (fun t => (t.pal, t.palLen, t.phase)) (exec .palDecode (parsed dscC8 bytesC8 .pal .first)) =
      some (some [⟨255, 0, 0, 255⟩, ⟨0, 0, 255, 255⟩], some 2, .asm) := by decide

/-- V-PAL-5, moved to offset 0: one byte of the palette is missing. -/
theorem test_palDecode_out_of_range :
    field (fun t => (t.status, t.pal)) (exec .palDecode (parsed dscC8 (bytesC8.take 3) .pal .first)) =
      some (⟨.error, .palette, .outOfRange, some 0⟩, none) := by decide

/-- V-PAL-6: without entries nothing is read, whatever PAL_OFF is. -/
theorem test_palDecode_no_entries :
    field (fun t => (t.pal, t.phase)) (exec .palDecode (parsed { dscC8 with colorCount := 0, palOff := 0xFFFFFFFF } [] .pal .first)) =
      some (some [], .asm) := by decide

/-- V-ASM-3: an image without pixels finishes at once. -/
theorem test_asmStart_empty :
    field (fun t => (t.resPb, t.seq)) (exec .asmStart (parsed { dscH with width := 0 } headerH .asm .first)) =
      some (some ⟨0, 4, []⟩, .complete) := by decide

theorem test_asmStart :
    field (fun t => (t.pb, t.bX, t.bY, t.bK, t.seq)) (exec .asmStart (parsed dscH headerH .asm .first)) =
      some (some ⟨4, 4, []⟩, some 0, some 0, some 0, .loop) := by decide

/-- As block 1 of P3: the last block overhangs the image and finishes it; its first column is red, then absent (43_assembler R276, R280). -/
theorem test_asmBlock_overhang :
    field (fun t => (t.pb.map fun b => ((List.range 4).map fun y => pixRead b 8 y, pixRead b 7 0), t.bX, t.bY, t.seq))
        (exec .asmBlock (walkC8 1 8)) =
      some (some ([some ⟨255, 0, 0, 255⟩, some ⟨0, 0, 0, 0⟩, some ⟨0, 0, 0, 0⟩, some ⟨0, 0, 0, 0⟩], some ⟨0, 0, 0, 0⟩),
        some 0, some 4, .complete) := by decide

/-- 10_state R62: BLK exists only during the block step. -/
theorem test_asmBlock_leaves_no_window : field State.blk (step (walkC8 0 0)) = some none := by decide

/-- V-ASM-1: one byte of the block is missing. -/
theorem test_asmBlock_out_of_range :
    field (fun t => (t.status, t.pb, t.resRegion)) (exec .asmBlock { walkC8 1 8 with wb := some (bytesC8.take 67) }) =
      some (⟨.error, .block, .outOfRange, some 36⟩, some (newPixBuf 9 4), none) := by decide

/-- V-REG-3, V-REG-4, V-REG-5. -/
theorem test_regionSize :
    regionSize Params.default { dscH with format := .rgb565, width := 16, height := 16, mipCount := 3 } = 672 ∧
    regionSize Params.default { dscH with format := .rgb565, width := 16, height := 16, mipCount := 5 } = 682 ∧
    regionSize Params.default { dscH with format := .cmpr, width := 1024, height := 512, mipCount := 11 } = 349525 := by decide

/-- The channel expansions of 95_test_vectors 2.1. -/
theorem test_expand :
    ([1, 3, 4].map expand3, [1, 3, 7].map expand4, [4, 15, 16].map expand5, [16, 31, 32].map expand6) =
      ([36, 109, 146], [17, 51, 119], [33, 123, 132], [65, 125, 130]) := by decide

/-- withFetchWord places a word where step runs it: a short back-reference of distance 2. -/
theorem test_withFetchWord :
    field (fun t => (t.ip, t.out)) (step (State.reset.withFetchWord 16 0x1001)) = some (some 18, some [0, 0, 0, 0, 0]) ∧
    field (fun t => t.rslt.map List.length) (step (State.reset.withFetchWord 8 0x06)) = some (some 16) := by decide

/-! ## Witnesses: for each statement with hypotheses a concrete state and operands that meet them all -/

/-- The parameters with another overrun mode. -/
def lzMode (m : Overrun) (s : State) : State := { s with params := { Params.default with lzOverrun := m } }

theorem test_witness_DecodeOfEncodeIsIdentity :
    (Instr.lzRefs 1 0xFFF).wellFormed = true ∧ encode Params.default (.lzRefs 1 0xFFF) = some (.token false, [0x1F, 0xFF]) ∧
    (Instr.palfmtRGB565 0xF801).wellFormed = true ∧
    encode Params.default (.palfmtRGB565 0xF801) = some (.paletteEntry 1, [0xF8, 0x01]) := by decide

/-- One per clause: the smallest short first byte, the largest long one, the ends of the two length ranges. -/
theorem test_witness_BackReferenceEncodingIsUnique :
    (0x10 : Byte).toNat / 16 ≠ 0 ∧ (0x0F : Byte).toNat / 16 = 0 ∧
    ((Instr.lzRefs 15 0xFFF).wellFormed = true ∧ refOperands (.lzRefs 15 0xFFF) = some (4095, 17)) ∧
    ((Instr.lzRefl 0xFFF 0).wellFormed = true ∧ refOperands (.lzRefl 0xFFF 0) = some (4095, 18)) ∧
    refOperands (.lzRefl 0xFFF 0xFF) = some (4095, 273) ∧ refOperands (.lzRefs 1 0) = some (0, 3) ∧
    (Instr.lzLit 0).wellFormed = true := by decide

theorem test_witness_HeaderDecodeOfEncodeIsIdentity :
    fmtOfCode Params.default dscC8.formatRaw = some dscC8.format ∧ palOfCode Params.default dscC8.palFmtRaw = some dscC8.palFmt := by decide

theorem test_witness_ControlByteLoads : (lzAt 6 [0x80] [] 0 0).ip = some 16 := by decide

theorem test_witness_LiteralAppendsItsByte :
    (lzAt 6 [7] [1] 0xC1 8).ip = some 16 ∧ (lzAt 6 [7] [1] 0xC1 8).out = some [1] ∧ (lzAt 6 [7] [1] 0xC1 8).flags = some 0xC1 ∧
    (lzAt 6 [7] [1] 0xC1 8).nbits = some 8 := by decide

/-- A short and a long back-reference that reach exactly to the first byte and exactly to DSIZE. -/
theorem test_witness_BackReferenceCopies :
    (lzAt 5 [] [1, 2] 0 8).out = some [1, 2] ∧ (lzAt 5 [] [1, 2] 0 8).dsize = some 5 ∧
    ((1 : BitVec 12).toNat + 1 ≤ 2 ∧ 2 + ((1 : BitVec 4).toNat + 2) ≤ (5 : Word).toNat) ∧
    (lzAt 20 [] [1, 2] 0 8).dsize = some 20 ∧ ((1 : BitVec 12).toNat + 1 ≤ 2 ∧ 2 + ((0 : Byte).toNat + 0x12) ≤ (20 : Word).toNat) ∧
    (lzAt 5 [] [1, 2] 0 8).ip = some 16 ∧ (lzAt 5 [] [1, 2] 0 8).flags = some 0 ∧ (lzAt 5 [] [1, 2] 0 8).nbits = some 8 := by decide

theorem test_witness_OverlappingCopyIsPeriodic : 1 + 1 ≤ ([1, 2] : List Byte).length ∧ 4 < 5 ∧ 1 < ([1, 2] : List Byte).length := by decide

/-- One byte too far, in the short and in the long form. -/
theorem test_witness_BackReferenceBeforeStartFails :
    (lzAt 5 [] [1, 2] 0 8).ip = some 16 ∧ (lzAt 5 [] [1, 2] 0 8).out = some [1, 2] ∧
    refOperands (.lzRefs 1 2) = some (2, 3) ∧ refOperands (.lzRefl 2 0) = some (2, 18) ∧ ([1, 2] : List Byte).length < 2 + 1 := by decide

/-- One byte past DSIZE in the short and in the long form, and an output that already fills DSIZE; each of the three modes. -/
theorem test_witness_OverrunFollowsItsParameter :
    ((lzMode .fault (lzAt 4 [] [1, 2] 0 8)).params.lzOverrun = .fault ∧
      (lzMode .truncate (lzAt 4 [] [1, 2] 0 8)).params.lzOverrun = .truncate ∧
      (lzMode .extend (lzAt 4 [] [1, 2] 0 8)).params.lzOverrun = .extend) ∧
    (lzAt 4 [] [1, 2] 0 8).ip = some 16 ∧ (lzAt 4 [] [1, 2] 0 8).out = some [1, 2] ∧ (lzAt 4 [] [1, 2] 0 8).dsize = some 4 ∧
    (lzAt 4 [] [1, 2] 0 8).flags = some 0 ∧ (lzAt 4 [] [1, 2] 0 8).nbits = some 8 ∧ ([1, 2] : List Byte).length = 2 ∧
    (1 : BitVec 12).toNat + 1 ≤ 2 ∧ (4 : Word).toNat < 2 + ((1 : BitVec 4).toNat + 2) ∧
    ((lzAt 19 [] [1, 2] 0 8).dsize = some 19 ∧ (19 : Word).toNat < 2 + ((0 : Byte).toNat + 0x12)) ∧
    ((lzAt 2 [] [1, 2] 0 8).dsize = some 2 ∧ (2 : Word).toNat < 2 + ((1 : BitVec 4).toNat + 2)) := by decide

/-- The tag with exactly 8 bytes, and with 7. -/
theorem test_witness_TaggedInputStartsDecompression :
    ((streamHeader 1).take 8).take 4 = magicBytes State.reset.params.lzMagic ∧ 8 ≤ ((streamHeader 1).take 8).length ∧
    ((streamHeader 1).take 7).take 4 = magicBytes State.reset.params.lzMagic ∧ ((streamHeader 1).take 7).length < 8 ∧
    { busyIn .decompress .lz .first with inp := some ((streamHeader 1).take 8) }.inp = some ((streamHeader 1).take 8) := by decide

theorem test_witness_UntaggedInputPassesThrough :
    { State.reset with requests := [⟨1, [0x59, 0x61, 0x7A], 0⟩] }.requests = ⟨1, [0x59, 0x61, 0x7A], 0⟩ :: [] ∧
    busyPhase State.reset.phase = false ∧ State.reset.status.state ≠ .busy ∧
    ([0x59, 0x61, 0x7A] : List Byte).take 4 ≠ magicBytes State.reset.params.lzMagic := by decide

/-- What MissingPayloadByteIsTruncation asks of a state besides the byte that is missing. -/
def insideLoop (s : State) (inp out : List Byte) (size : Word) (ip n : Nat) (f : Byte) : Prop :=
  s.phase = .lz ∧ s.seq = .loop ∧ s.inp = some inp ∧ s.out = some out ∧ s.dsize = some size ∧ out.length < size.toNat ∧
  s.ip = some ip ∧ s.nbits = some n ∧ s.flags = some f

/-- Seven states, one for each place at which a byte can be missing (V-LZ-9 to V-LZ-12). -/
theorem test_witness_MissingPayloadByteIsTruncation :
    (insideLoop (lzAt 9 [] [] 0 0) (streamHeader 9) [] 9 16 0 0 ∧ (streamHeader 9).length ≤ 16) ∧
    (insideLoop (lzAt 9 [0xFF] [] 0 0) (streamHeader 9 ++ [0xFF]) [] 9 16 0 0 ∧ (streamHeader 9 ++ [0xFF]).length = 16 + 1) ∧
    (insideLoop (lzAt 9 [0x7F, 0x30] [] 0 0) (streamHeader 9 ++ [0x7F, 0x30]) [] 9 16 0 0 ∧
      (streamHeader 9 ++ [0x7F, 0x30]).length = 16 + 2 ∧ (streamHeader 9 ++ [0x7F, 0x30])[16]? = some 0x7F ∧ (0x7F : Byte).toNat < 128) ∧
    (insideLoop (lzAt 9 [0x7F, 0x0F, 0x00] [] 0 0) (streamHeader 9 ++ [0x7F, 0x0F, 0x00]) [] 9 16 0 0 ∧
      (streamHeader 9 ++ [0x7F, 0x0F, 0x00]).length = 16 + 3 ∧ (streamHeader 9 ++ [0x7F, 0x0F, 0x00])[16]? = some 0x7F ∧
      (streamHeader 9 ++ [0x7F, 0x0F, 0x00])[16 + 1]? = some 0x0F ∧ (0x0F : Byte).toNat < 16) ∧
    (insideLoop (lzAt 9 [] [1] 0x80 1) (streamHeader 9) [1] 9 16 1 0x80 ∧ (streamHeader 9).length ≤ 16) ∧
    (insideLoop (lzAt 9 [0x30] [1] 0x7F 1) (streamHeader 9 ++ [0x30]) [1] 9 16 1 0x7F ∧ (streamHeader 9 ++ [0x30]).length = 16 + 1) ∧
    (insideLoop (lzAt 9 [0x0F, 0x00] [1] 0x7F 8) (streamHeader 9 ++ [0x0F, 0x00]) [1] 9 16 8 0x7F ∧
      (streamHeader 9 ++ [0x0F, 0x00]).length = 16 + 2 ∧ (streamHeader 9 ++ [0x0F, 0x00])[16]? = some 0x0F) := by
  unfold insideLoop
  repeat' apply And.intro
  all_goals decide

/-- Both ways to a complete result: untagged input, and a loop whose output has exactly DSIZE bytes. -/
theorem test_witness_LeavingLzDeliversTheResult :
    ({ busyIn .decode .lz .first with inp := some [1] }.inp = some [1] ∧ ([1] : List Byte).take 4 ≠ magicBytes Params.default.lzMagic) ∧
    ((lzAt 1 [] [7] 0 0).phase = .lz ∧ (lzAt 1 [] [7] 0 0).seq = .loop ∧ (lzAt 1 [] [7] 0 0).out = some [7] ∧
      (lzAt 1 [] [7] 0 0).dsize = some 1 ∧ (1 : Word).toNat ≤ ([7] : List Byte).length ∧ (lzAt 1 [] [7] 0 0).op = some .decompress) := by
  decide

/-- Both branches of RGB5A3, at the two values where they meet. -/
theorem test_witness_PixelConversions : 32768 ≤ (0x8000 : Half).toNat ∧ (0x7FFF : Half).toNat < 32768 := by decide

/-- A window of exactly 32 bytes, and its last byte. -/
theorem test_witness_IntensityFormatsDecode :
    (blockState 32 [1] []).blk = some (pad 32 [1]) ∧ 32 ≤ (pad 32 [1]).length ∧ (pad 32 [1])[31]? = some 0 := by decide

theorem test_witness_SixteenBitFormatsDecode :
    (blockState 32 [1] []).blk = some (pad 32 [1]) ∧ 32 ≤ (pad 32 [1]).length ∧ (pad 32 [1])[2 * 15]? = some 0 ∧
    (pad 32 [1])[2 * 15 + 1]? = some 0 := by decide

theorem test_witness_Rgba32Decodes :
    (blockState 64 [1] []).blk = some (pad 64 [1]) ∧ 64 ≤ (pad 64 [1]).length ∧ (pad 64 [1])[32 + 2 * 15 + 1]? = some 0 := by decide

/-- An index in the palette and one just past it. -/
theorem test_witness_IndexedFormatsLookUp :
    (blockState 32 [2, 3] pal3).blk = some (pad 32 [2, 3]) ∧ 32 ≤ (pad 32 [2, 3]).length ∧ (blockState 32 [2, 3] pal3).pal = some pal3 ∧
    (2 : Byte).toNat < pal3.length ∧ ¬(3 : Byte).toNat < pal3.length := by decide

theorem test_witness_CmprDecodes :
    (blockState 32 [1] []).blk = some (pad 32 [1]) ∧ 32 ≤ (pad 32 [1]).length ∧ memRead (pad 32 [1]) (8 * 3) 2 = some 0 ∧
    memRead (pad 32 [1]) (8 * 0) 2 = some 256 ∧ memRead (pad 32 [1]) (8 * 3 + 4) 4 = some 0 := by decide

/-- Both colour modes, at the values where they meet. -/
theorem test_witness_CmprColourRule : (0 : Half).toNat < (1 : Half).toNat ∧ (1 : Half).toNat ≤ (1 : Half).toNat := by decide

theorem test_witness_OnlyIndexedFormatsGiveAbsent : isIndexed .cmpr = false ∧ isIndexed .i4 = false := by decide

theorem test_witness_PaletteFormatsConvertOneEntry : (blockState 32 [] pal3).pal = some pal3 := by decide

theorem test_witness_PaletteIsEmptyForDirectFormats :
    (parsed dscH [] .pal .first).dscValid = true ∧ (parsed dscH [] .pal .first).dsc = some dscH ∧ isIndexed dscH.format = false := by decide

/-- A palette that ends exactly at the end of WB, and one without entries. -/
theorem test_witness_PaletteDecodesEveryEntry :
    (parsed dscC8 (bytesC8.take 4) .pal .first).dscValid = true ∧ (parsed dscC8 (bytesC8.take 4) .pal .first).dsc = some dscC8 ∧
    isIndexed dscC8.format = true ∧ (parsed dscC8 (bytesC8.take 4) .pal .first).wb = some (bytesC8.take 4) ∧
    (parsed dscC8 (bytesC8.take 4) .pal .first).hb = some 0 ∧
    (0 : Word).toNat + dscC8.palOff.toNat + 2 * dscC8.colorCount.toNat ≤ (bytesC8.take 4).length ∧
    memRead (bytesC8.take 4) ((0 : Word).toNat + dscC8.palOff.toNat + 2 * 1) 2 = some 0x1F ∧
    ((parsed { dscC8 with colorCount := 0 } [] .pal .first).dsc = some { dscC8 with colorCount := 0 } ∧
      { dscC8 with colorCount := 0 }.colorCount.toNat = 0 ∧ isIndexed { dscC8 with colorCount := 0 }.format = true) := by decide

theorem test_witness_PaletteOutOfRange :
    (parsed dscC8 (bytesC8.take 3) .pal .first).dsc = some dscC8 ∧ (parsed dscC8 (bytesC8.take 3) .pal .first).dscValid = true ∧
    isIndexed dscC8.format = true ∧ (parsed dscC8 (bytesC8.take 3) .pal .first).wb = some (bytesC8.take 3) ∧
    (parsed dscC8 (bytesC8.take 3) .pal .first).hb = some 0 ∧ 0 < dscC8.colorCount.toNat ∧
    (bytesC8.take 3).length < (0 : Word).toNat + dscC8.palOff.toNat + 2 * dscC8.colorCount.toNat := by decide

theorem test_witness_PaletteEntriesKeepTheirOrder : (blockState 32 [] []).pal = some [] := by decide

/-- A header that ends exactly at the end of WB, in both operations that parse one. -/
theorem test_witness_HeaderParseLoadsEveryField :
    (hdrState .parseHeader headerH).wb = some headerH ∧ (hdrState .parseHeader headerH).hb = some 0 ∧
    (0 : Word).toNat + 0x20 ≤ headerH.length ∧ memRead headerH (0 : Word).toNat 1 = some 0 ∧
    memRead headerH ((0 : Word).toNat + 0x09) 1 = some 0 ∧ fmtOfCode Params.default (BitVec.ofNat 8 0) = some .i4 ∧
    palOfCode Params.default (BitVec.ofNat 8 0) = some .ia8 ∧ (hdrState .parseHeader headerH).op = some .parseHeader ∧
    (hdrState .decode headerH).op = some .decode := by decide

/-- One per clause: V-HDR-2, V-HDR-3, V-HDR-4. -/
theorem test_witness_HeaderErrorsComeInOrder :
    ((hdrState .decode (headerH.take 31)).wb = some (headerH.take 31) ∧ (hdrState .decode (headerH.take 31)).hb = some 0 ∧
      (headerH.take 31).length < (0 : Word).toNat + 0x20) ∧
    ((hdrState .decode (headerH.set 0 7)).wb = some (headerH.set 0 7) ∧ memRead (headerH.set 0 7) (0 : Word).toNat 1 = some 7 ∧ memRead (headerH.set 0 7) ((0 : Word).toNat + 9) 1 = some 0 ∧
      (0 : Word).toNat + 0x20 ≤ (headerH.set 0 7).length ∧ fmtOfCode Params.default (BitVec.ofNat 8 7) = none) ∧
    ((hdrState .decode (headerH.set 9 3)).wb = some (headerH.set 9 3) ∧ memRead (headerH.set 9 3) (0 : Word).toNat 1 = some 0 ∧
      memRead (headerH.set 9 3) ((0 : Word).toNat + 9) 1 = some 3 ∧ (0 : Word).toNat + 0x20 ≤ (headerH.set 9 3).length ∧ fmtOfCode Params.default (BitVec.ofNat 8 0) = some .i4 ∧
      palOfCode Params.default (BitVec.ofNat 8 3) = none) := by decide

/-- V-HDR-9 changes one of the bytes that are not read. -/
theorem test_witness_UnusedHeaderBytesAreIgnored :
    (hdrState .decode headerH).wb = some headerH ∧ (hdrState .decode headerH).hb = some 0 ∧
    (headerH.set 0x19 0x77).length = headerH.length ∧ headerH.set 0x19 0x77 ≠ headerH ∧
    ∀ k, k ≠ (0 : Word).toNat + 0x19 → (headerH.set 0x19 0x77)[k]? = headerH[k]? := by
  refine ⟨by decide, by decide, by decide, by decide, fun k hk => ?_⟩
  have : (0 : Word).toNat = 0 := by decide
  rw [List.getElem?_set_ne]
  omega

theorem test_witness_RegionSizeSumsTheLevels :
    (after (exec .hdrParse (hdrState .decode headerH))).map (fun t => (t.phase, t.dsc)) = some (.pal, some dscH) := by decide

/-- An image with pixels and one without. -/
theorem test_witness_AssemblerStartsTransparent :
    (parsed dscH headerH .asm .first).dscValid = true ∧ (parsed dscH headerH .asm .first).dsc = some dscH ∧ 0 < dscH.width.toNat ∧
    0 < dscH.height.toNat ∧ { dscH with width := 0 }.width.toNat = 0 := by decide

/-- Block 0 of 2, after which one more follows, and block 1, after which none does; WB ends exactly at the end of block 1. -/
theorem test_witness_AssemblerPlacesOneBlock :
    (walkC8 1 8).dscValid = true ∧ (walkC8 1 8).dsc = some dscC8 ∧ (walkC8 1 8).geom = some (geometryOf dscC8) ∧
    (walkC8 1 8).wb = some bytesC8 ∧ (walkC8 1 8).hb = some 0 ∧ (walkC8 1 8).pal = some [⟨255, 0, 0, 255⟩, ⟨0, 0, 255, 255⟩] ∧
    (walkC8 1 8).bK = some 1 ∧ (walkC8 1 8).bX = some 8 ∧ (walkC8 1 8).bY = some 0 ∧ (walkC8 1 8).pb = some (newPixBuf 9 4) ∧
    pixBufWf (newPixBuf 9 4) = true ∧ (newPixBuf 9 4).width = dscC8.width.toNat ∧ (newPixBuf 9 4).height = dscC8.height.toNat ∧
    (0 : Word).toNat + dscC8.imgOff.toNat + 1 * blockBytes dscC8.format + blockBytes dscC8.format ≤ bytesC8.length ∧
    dscC8.height.toNat ≤ nextBY 9 8 4 8 0 ∧ nextBY 9 8 4 0 0 < dscC8.height.toNat := by decide

theorem test_witness_BlockOutOfRange :
    (walkC8 1 8).dscValid = true ∧ (walkC8 1 8).dsc = some dscC8 ∧ (walkC8 1 8).geom = some (geometryOf dscC8) ∧
    { walkC8 1 8 with wb := some (bytesC8.take 67) }.wb = some (bytesC8.take 67) ∧ (walkC8 1 8).hb = some 0 ∧ (walkC8 1 8).bK = some 1 ∧
    (bytesC8.take 67).length < (0 : Word).toNat + dscC8.imgOff.toNat + 1 * blockBytes dscC8.format + blockBytes dscC8.format := by decide

/-- The walk of `dscC8` before its block 0 and before its block 1. -/
theorem test_walkC8_is_a_walk : DscLoaded (walkC8 0 0) dscC8 ∧ WalkAt (walkC8 0 0) dscC8 0 ∧ DscLoaded (walkC8 1 8) dscC8 ∧
    WalkAt (walkC8 1 8) dscC8 1 := by
  refine ⟨?_, ?_, ?_, ?_⟩
  · exact ⟨by decide, by decide, by decide⟩
  · exact ⟨by decide, by decide, by decide, by decide, newPixBuf 9 4, by decide, by decide, by decide⟩
  · exact ⟨by decide, by decide, by decide⟩
  · exact ⟨by decide, by decide, by decide, by decide, newPixBuf 9 4, by decide, by decide, by decide⟩

/-- Block 0 is not the last of the 2 blocks, block 1 is. -/
theorem test_witness_WalkVisitsEveryBlockOnce :
    DscLoaded (walkC8 0 0) dscC8 ∧ WalkAt (walkC8 0 0) dscC8 0 ∧ (walkC8 0 0).phase = .asm ∧
    field State.phase (exec .asmBlock (walkC8 0 0)) = some .asm ∧ field State.phase (exec .asmBlock (walkC8 1 8)) = some .asm ∧
    0 + 1 < (geometryOf dscC8).nblk ∧ 1 + 1 = (geometryOf dscC8).nblk :=
  ⟨test_walkC8_is_a_walk.1, test_walkC8_is_a_walk.2.1, by decide, by decide, by decide, by decide, by decide⟩

theorem test_witness_BufferIsTheImageSoFar :
    (parsed dscC8 bytesC8 .asm .first).dscValid = true ∧ (parsed dscC8 bytesC8 .asm .first).dsc = some dscC8 ∧
    field State.phase (exec .asmStart (parsed dscC8 bytesC8 .asm .first)) = some .asm ∧
    DscLoaded (walkC8 0 0) dscC8 ∧ WalkAt (walkC8 0 0) dscC8 0 ∧ (walkC8 0 0).phase = .asm ∧ (walkC8 0 0).hb = some 0 ∧
    (walkC8 0 0).wb = some bytesC8 ∧ (walkC8 0 0).pal = some [⟨255, 0, 0, 255⟩, ⟨0, 0, 255, 255⟩] ∧
    (walkC8 0 0).pb = some (newPixBuf 9 4) ∧ pixBufWf (newPixBuf 9 4) = true ∧
    ImageSoFar Params.default dscC8 0 bytesC8 [⟨255, 0, 0, 255⟩, ⟨0, 0, 255, 255⟩] 0 (newPixBuf 9 4) ∧
    field State.phase (exec .asmBlock (walkC8 0 0)) = some .asm := by
  refine ⟨by decide, by decide, by decide, test_walkC8_is_a_walk.1, test_walkC8_is_a_walk.2.1, by decide, by decide, by decide, by decide,
    by decide, by decide, ?_, by decide⟩
  intro x y hx hy
  have h1 : dscC8.width.toNat = 9 := by decide
  have h2 : dscC8.height.toNat = 4 := by decide
  simp [pixRead, newPixBuf, getCell]
  omega

/-- One per clause. -/
theorem test_witness_OperationsStart :
    State.reset.status.state ≠ .busy ∧ (busyIn .decode .lz .first).status.state = .busy := by decide

/-- Each legal code, and 0 and 4 beside them. -/
theorem test_witness_RequestsStartOperations :
    { State.reset with requests := [⟨3, [1], 0⟩, ⟨0, [], 0⟩] }.requests = ⟨3, [1], 0⟩ :: [⟨0, [], 0⟩] ∧ busyPhase State.reset.phase = false ∧
    State.reset.status.state ≠ .busy ∧ ((⟨3, [1], 0⟩ : Request).op = 1 ∨ (⟨3, [1], 0⟩ : Request).op = 2 ∨ (⟨3, [1], 0⟩ : Request).op = 3) ∧
    ((⟨0, [], 0⟩ : Request).op ≠ 1 ∧ (⟨0, [], 0⟩ : Request).op ≠ 2 ∧ (⟨0, [], 0⟩ : Request).op ≠ 3) ∧
    ((⟨4, [], 0⟩ : Request).op ≠ 1 ∧ (⟨4, [], 0⟩ : Request).op ≠ 2 ∧ (⟨4, [], 0⟩ : Request).op ≠ 3) := by decide

theorem test_witness_CompletionSetsDone :
    busyPhase (busyIn .decompress .lz .complete).phase = true ∧ (busyIn .decompress .lz .complete).seq = .complete := by decide

/-- A step that raises, in each of the four phases. -/
theorem test_witness_ErrorsArePrecise :
    field State.phase (step (lzAt 4 [0x00, 0x10, 0x00] [] 0 0)) = some .error ∧
    field State.phase (step (hdrState .decode [])) = some .error ∧
    field State.phase (step (parsed dscC8 [] .pal .first)) = some .error ∧
    field State.phase (step { walkC8 1 8 with wb := some [] }) = some .error ∧
    [Phase.lz, Phase.hdr, Phase.pal, Phase.asm].all busyPhase = true := by decide

theorem test_witness_EngineWaitsForTheHost : [Phase.idle, Phase.done, Phase.error].all (fun p => !busyPhase p) = true ∧ State.reset.requests = [] := by
  decide

/-- Before completion, and after it with registers that hold values and with the four that hold none. -/
theorem test_witness_HostReadsResultsOnlyWhenDone :
    (busyIn .decompress .lz .complete).status.state ≠ .done ∧ (completeOp (busyIn .decompress .lz .complete)).status.state = .done ∧
    (completeOp { busyIn .decompress .lz .complete with resBytes := some [1] }).resBytes = some [1] ∧
    (completeOp { State.reset with resDsc := some dscH, resPb := some (newPixBuf 4 4), resRegion := some 32 }).resDsc = some dscH ∧
    ((completeOp (busyIn .decompress .lz .complete)).resBytes = none ∧ (completeOp (busyIn .decompress .lz .complete)).resDsc = none ∧
      (completeOp (busyIn .decompress .lz .complete)).resPb = none ∧ (completeOp (busyIn .decompress .lz .complete)).resRegion = none) := by decide

theorem test_witness_ParseHeaderDeliversTheDescriptor :
    { State.reset with requests := [⟨2, headerH, 0⟩] }.requests = ⟨2, headerH, 0⟩ :: [] ∧ busyPhase State.reset.phase = false ∧
    State.reset.status.state ≠ .busy ∧ (0 : Word).toNat + 0x20 ≤ headerH.length ∧
    decodeHeader Params.default ((headerH.drop (0 : Word).toNat).take 0x20) = .ok dscH := by decide

/-- One per clause: a unit, a request, a token with control bits left, and a control byte with a token. -/
theorem test_witness_StepRunsTheDecodedInstruction :
    decodeSequencer .hdr .first = some .hdrParse ∧ decodeRequest ⟨1, [1], 0⟩ = some (.opDecompress [1] 0) ∧
    busyPhase State.reset.phase = false ∧
    ((lzAt 6 [7] [1] 0x80 1).phase = .lz ∧ (lzAt 6 [7] [1] 0x80 1).seq = .loop ∧ (lzAt 6 [7] [1] 0x80 1).flags = some 0x80 ∧
      ([1] : List Byte).length < (6 : Word).toNat ∧
      decode Params.default (.token (controlBit 0x80)) ((streamHeader 6 ++ [7]).drop 16) = some (.lzLit 7, [])) ∧
    (decode Params.default .control ((streamHeader 6 ++ [0x80, 7]).drop 16) = some (.lzCtrl 0x80, [7]) ∧
      decode Params.default (.token (controlBit 0x80)) [7] = some (.lzLit 7, []) ∧
      field State.phase (exec (.lzLit 7) { lzAt 6 [0x80, 7] [] 0 0 with flags := some 0x80, nbits := some 8, ip := some 17 }) = some .lz) := by
  decide

/-- A state inside the LZ loop that meets the invariant. -/
theorem test_lzAt_meets_the_invariant : Inv (lzAt 6 [0x80, 0xAB, 0x30, 0x00] [] 0 0) := by
  refine ⟨⟨rfl, fun _ => ⟨rfl, rfl, rfl⟩, fun h => ?_⟩, ⟨.inl rfl, rfl, rfl, rfl, rfl, rfl, rfl, 0, rfl, by decide⟩, rfl, rfl⟩
  cases h

theorem test_witness_StepKeepsTheInvariant : Inv (lzAt 6 [0x80, 0xAB, 0x30, 0x00] [] 0 0) := test_lzAt_meets_the_invariant

theorem test_witness_StepKeepsMemoryCanonical :
    Memory.wf (walkC8 1 8) = true ∧ field State.bK (step (walkC8 1 8)) = some (some 2) := by decide

theorem test_witness_ParametersAndInputsAreReadOnly :
    busyPhase (walkC8 1 8).phase = true ∧ field State.bK (step (walkC8 1 8)) = some (some 2) := by decide

theorem test_witness_OnlyHeaderParseWritesTheDescriptor :
    Instr.palDecode ≠ .hdrParse ∧ field State.phase (exec .palDecode (parsed dscH [] .pal .first)) = some .asm := by decide

theorem test_witness_OutputOnlyGrows :
    (lzAt 6 [7] [1] 0x80 1).phase = .lz ∧ (lzAt 6 [7] [1] 0x80 1).seq = .loop ∧ (lzAt 6 [7] [1] 0x80 1).out = some [1] ∧
    field State.out (step (lzAt 6 [7] [1] 0x80 1)) = some (some [1, 7]) := by decide

theorem test_witness_PhasesFollowTheOperation :
    Inv (lzAt 6 [0x80, 0xAB, 0x30, 0x00] [] 0 0) ∧ busyPhase (lzAt 6 [0x80, 0xAB, 0x30, 0x00] [] 0 0).phase = true ∧
    field State.phase (step (lzAt 6 [0x80, 0xAB, 0x30, 0x00] [] 0 0)) = some .lz :=
  ⟨test_lzAt_meets_the_invariant, by decide, by decide⟩

theorem test_witness_RequestsCannotDisturbAnOperation : busyPhase (walkC8 1 8).phase = true := by decide

theorem test_witness_EveryOperationEnds :
    Inv (lzAt 6 [0x80, 0xAB, 0x30, 0x00] [] 0 0) ∧ busyPhase (lzAt 6 [0x80, 0xAB, 0x30, 0x00] [] 0 0).phase = true :=
  ⟨test_lzAt_meets_the_invariant, by decide⟩

/-- From the state after reset and from one that an operation has left its registers in. -/
theorem test_witness_OperationsAreDeterministic :
    { State.reset with requests := [⟨3, [1], 0⟩] }.params = { completeOp (walkC8 1 8) with requests := [⟨3, [1], 0⟩] }.params ∧
    { completeOp (walkC8 1 8) with requests := [⟨3, [1], 0⟩] }.requests = [⟨3, [1], 0⟩] ∧ busyPhase State.reset.phase = false ∧
    busyPhase (completeOp (walkC8 1 8)).phase = false ∧ State.reset.status.state ≠ .busy ∧
    (completeOp (walkC8 1 8)).status.state ≠ .busy ∧ 0 < 1 := by decide

/-- A phase that a run ends in. -/
def runPhase (k : Nat) (r : Request) : Option Phase := field State.phase (Host.Core.run Sys2Proof.core k { State.reset with requests := [r] })

/-- One per clause: an untagged byte, whose DECOMPRESS ends well and whose DECODE ends (in OutOfRange); a tag with 7 bytes, where both end in an
error (V-LZ-17). -/
theorem test_witness_DecodeComposesWithDecompress :
    busyPhase State.reset.phase = false ∧ State.reset.status.state ≠ .busy ∧ 0 < 3 ∧ runPhase 3 ⟨1, [1], 0⟩ = some .done ∧
    field State.resBytes (Host.Core.run Sys2Proof.core 3 { State.reset with requests := [⟨1, [1], 0⟩] }) = some (some [1]) ∧
    ([1] : List Byte).take 4 ≠ magicBytes State.reset.params.lzMagic ∧ runPhase 3 ⟨3, [1], 0⟩ = some .error ∧
    runPhase 2 ⟨1, (streamHeader 1).take 7, 0⟩ = some .error ∧ runPhase 2 ⟨3, (streamHeader 1).take 7, 0⟩ = some .error := by decide

end Sys2Proof.Tests
end

namespace Sys2Proof.Machine

/-! ## Block geometry and the walk's cursors -/

theorem blockWidth_pos (f : PixFmt) : 0 < blockWidth f := by cases f <;> decide

theorem blockHeight_pos (f : PixFmt) : 0 < blockHeight f := by cases f <;> decide

/-- `ceilDiv a b` is the least number of blocks of size `b` that cover `a` (10_state R53). -/
theorem ceilDiv_le_iff {a b : Nat} (hb : 0 < b) (n : Nat) : ceilDiv a b ≤ n ↔ a ≤ n * b := by
  rw [Nat.mul_comm]
  exact ceilDiv_le_iff_le_mul hb

theorem ceilDiv_pos {a b : Nat} (ha : 0 < a) (hb : 0 < b) : 0 < ceilDiv a b := by
  have := ceilDiv_le_iff (a := a) hb 0
  omega

/-- An image with pixels has a block. -/
theorem nblk_pos {d : Dsc} (hw : d.width.toNat ≠ 0) (hh : d.height.toNat ≠ 0) : 0 < (geometryOf d).nblk :=
  Nat.mul_pos (ceilDiv_pos (by omega) (blockWidth_pos _)) (ceilDiv_pos (by omega) (blockHeight_pos _))

/-- One more block in a row of `n`: the column and the row of block `k + 1`. -/
theorem succ_mod_div {n : Nat} (hn : 0 < n) (k : Nat) :
    (n ≤ k % n + 1 → (k + 1) % n = 0 ∧ (k + 1) / n = k / n + 1) ∧
    (k % n + 1 < n → (k + 1) % n = k % n + 1 ∧ (k + 1) / n = k / n) := by
  have hk : n * (k / n) + k % n = k := Nat.div_add_mod k n
  have hlt : k % n < n := Nat.mod_lt k hn
  constructor
  · intro h
    have hsucc : k + 1 = n * (k / n + 1) := by rw [Nat.mul_add]; omega
    rw [hsucc, Nat.mul_mod_right, Nat.mul_div_cancel_left _ hn]
    exact ⟨rfl, rfl⟩
  · intro h
    have hsucc : k + 1 = k % n + 1 + n * (k / n) := by omega
    rw [hsucc, Nat.add_mul_mod_self_left, Nat.add_mul_div_left _ _ hn, Nat.mod_eq_of_lt h, Nat.div_eq_of_lt h, Nat.zero_add]
    exact ⟨rfl, rfl⟩

theorem nbx_pos {d : Dsc} (hw : 0 < d.width.toNat) : 0 < (geometryOf d).nbx := ceilDiv_pos hw (blockWidth_pos _)

/-- A block row ends at column `j` exactly when that is its last block (43_assembler R273). -/
theorem rowEnds_iff (d : Dsc) (j : Nat) :
    d.width.toNat ≤ j * (geometryOf d).bw + (geometryOf d).bw ↔ (geometryOf d).nbx ≤ j + 1 := by
  rw [← Nat.succ_mul]
  exact (ceilDiv_le_iff (blockWidth_pos d.format) _).symm

/-- From the column of block `k`, BX goes to the column of block `k + 1` (43_assembler R273). -/
theorem nextBX_column {d : Dsc} (hw : 0 < d.width.toNat) (k : Nat) :
    nextBX d.width.toNat (geometryOf d).bw (k % (geometryOf d).nbx * (geometryOf d).bw) =
      (k + 1) % (geometryOf d).nbx * (geometryOf d).bw := by
  obtain ⟨hlast, hinner⟩ := succ_mod_div (nbx_pos hw) k
  unfold nextBX
  by_cases h : (geometryOf d).nbx ≤ k % (geometryOf d).nbx + 1
  · rw [if_pos ((rowEnds_iff d _).2 h), (hlast h).1, Nat.zero_mul]
  · rw [if_neg (mt (rowEnds_iff d _).1 h), (hinner (by omega)).1, Nat.succ_mul]

/-- From the row of block `k`, BY goes to the row of block `k + 1` (43_assembler R273). -/
theorem nextBY_row {d : Dsc} (hw : 0 < d.width.toNat) (k : Nat) :
    nextBY d.width.toNat (geometryOf d).bw (geometryOf d).bh (k % (geometryOf d).nbx * (geometryOf d).bw)
      (k / (geometryOf d).nbx * (geometryOf d).bh) = (k + 1) / (geometryOf d).nbx * (geometryOf d).bh := by
  obtain ⟨hlast, hinner⟩ := succ_mod_div (nbx_pos hw) k
  unfold nextBY
  by_cases h : (geometryOf d).nbx ≤ k % (geometryOf d).nbx + 1
  · rw [if_pos ((rowEnds_iff d _).2 h), (hlast h).2, Nat.succ_mul]
  · rw [if_neg (mt (rowEnds_iff d _).1 h), (hinner (by omega)).2]

/-- The walk has left the image exactly when `k` blocks, all of them, are done (43_assembler R273, R277). -/
theorem height_le_row_iff {d : Dsc} (hw : 0 < d.width.toNat) (k : Nat) :
    d.height.toNat ≤ k / (geometryOf d).nbx * (geometryOf d).bh ↔ (geometryOf d).nblk ≤ k := by
  calc d.height.toNat ≤ k / (geometryOf d).nbx * (geometryOf d).bh
      ↔ (geometryOf d).nby ≤ k / (geometryOf d).nbx := (ceilDiv_le_iff (blockHeight_pos d.format) _).symm
    _ ↔ (geometryOf d).nby * (geometryOf d).nbx ≤ k := Nat.le_div_iff_mul_le (nbx_pos hw)
    _ ↔ (geometryOf d).nblk ≤ k := by rw [Nat.mul_comm]; rfl

/-- An image that still has a block has a pixel. -/
theorem width_pos_of_nblk {d : Dsc} {k : Nat} (hk : k < (geometryOf d).nblk) : 0 < d.width.toNat := by
  by_contra h
  have hnbx : ceilDiv d.width.toNat (blockWidth d.format) ≤ 0 := (ceilDiv_le_iff (blockWidth_pos _) 0).2 (by omega)
  have hnblk : (geometryOf d).nblk = ceilDiv d.width.toNat (blockWidth d.format) * (geometryOf d).nby := rfl
  rw [hnblk, Nat.le_zero.1 hnbx, Nat.zero_mul] at hk
  omega

/-- Settles O18: the table by the formats, the block counts by `ceilDiv_le_iff`. -/
theorem geometryTableInvariant : Obligations.GeometryTableInvariant := by
  unfold Obligations.GeometryTableInvariant
  refine ⟨fun f => by cases f <;> rfl, by decide, by decide, fun d => ⟨rfl, rfl, rfl, fun n => ?_, fun n => ?_, rfl⟩⟩
  · exact (ceilDiv_le_iff (blockWidth_pos d.format) n).symm
  · exact (ceilDiv_le_iff (blockHeight_pos d.format) n).symm

/-- Settles O47: the codes are the ones the definitions list. -/
theorem statusCodes : Obligations.StatusCodes := by
  unfold Obligations.StatusCodes
  decide

end Sys2Proof.Machine

namespace Sys2Proof.Machine

/-! ## What each unit can answer

One lemma per unit for its result and one for the error it raises; the register reads that stop it are what is left over. -/

theorem need_not_raised {α : Type} (r : Reg) (o : Option α) (e : Err) : need r o ≠ .error (.raised e) := by
  rcases o with _ | a <;> simp

/-- The bind of two units' answers raises what the first raises, or what the second raises on the first's result. -/
theorem res_bind_eq_raised {α β : Type} {x : Res α} {f : α → Res β} {e : Err} :
    (x >>= f) = .error (.raised e) ↔ x = .error (.raised e) ∨ ∃ a, x = .ok a ∧ f a = .error (.raised e) := by
  rcases x with y | a <;> simp

/-- LZ.DETECT (44_lz_stream R301 to R305). -/
theorem lzDetectStep_eq_ok {s t : State} : lzDetectStep s = .ok t ↔ ∃ inp, s.inp = some inp ∧
    ((isTagged s.params inp = true ∧ ∃ size, memRead inp 4 4 = some size ∧ t = lzInit size s) ∨
     (isTagged s.params inp = false ∧ leaveLz inp s = .ok t)) := by
  unfold lzDetectStep
  rcases s.inp with _ | inp
  · simp
  · rcases ht : isTagged s.params inp
    · simp [ht]
    · rcases hm : memRead inp 4 4 <;> simp [ht, hm, raise, @eq_comm _ t]

theorem lzDetectStep_eq_raised {s : State} {e : Err} : lzDetectStep s = .error (.raised e) ↔
    ∃ inp, s.inp = some inp ∧ isTagged s.params inp = true ∧ memRead inp 4 4 = none ∧ e = ⟨.outOfRange, .decompress, 4⟩ := by
  unfold lzDetectStep
  rcases s.inp with _ | inp
  · simp
  · rcases ht : isTagged s.params inp
    · simp [ht, leaveLz_not_raised]
    · rcases hm : memRead inp 4 4 <;> simp [ht, hm, raise, @eq_comm _ e]

/-- LZ.CTRL (44_lz_stream R310). -/
theorem lzCtrlStep_eq_ok {f : Byte} {s t : State} : lzCtrlStep f s = .ok t ↔
    ∃ ip, s.ip = some ip ∧ t = { s with flags := some f, nbits := some loadedBits, ip := some (ip + 1) } := by
  unfold lzCtrlStep
  rcases s.ip with _ | ip <;> simp [eq_comm]

/-- LZ.LIT (44_lz_stream R311, R323). -/
theorem lzLitStep_eq_ok {b : Byte} {s t : State} : lzLitStep b s = .ok t ↔
    ∃ ip out f n, s.ip = some ip ∧ s.out = some out ∧ s.flags = some f ∧ s.nbits = some n ∧
      t = { s with ip := some (ip + 1), out := some (outPush out b), flags := some (shiftFlags f), nbits := some (countBits n) } := by
  unfold lzLitStep
  rcases s.ip with _ | ip <;> rcases s.out with _ | out <;> simp [afterToken_eq_ok]

theorem lzLitStep_not_raised (b : Byte) (s : State) (e : Err) : lzLitStep b s ≠ .error (.raised e) := by
  unfold lzLitStep
  rcases s.ip with _ | ip <;> rcases s.out with _ | out <;> simp [afterToken_not_raised]

/-- The overrun rule's error (44_lz_stream R322). -/
theorem overrun_eq_raised {mode : Overrun} {m dsize n : Nat} {e : Err} : overrun mode m dsize n = .error (.raised e) ↔
    dsize < m + n ∧ mode = .fault ∧ e = ⟨.lzOverrun, .decompress, ((m + n : Nat) : Int)⟩ := by
  unfold overrun
  split
  · simp [*]
  · have : dsize < m + n := by omega
    cases mode <;> simp [*, raise, eq_comm]

/-- A back-reference (44_lz_stream R315, R320, R322, R323). -/
theorem lzRefStep_eq_ok {bytes d n : Nat} {s t : State} : lzRefStep bytes d n s = .ok t ↔
    ∃ ip out size m f k, s.ip = some ip ∧ s.out = some out ∧ s.dsize = some size ∧ 0 ≤ sourceIndex out.length d ∧
      overrun s.params.lzOverrun out.length size.toNat n = .ok m ∧ s.flags = some f ∧ s.nbits = some k ∧
      t = { s with
        ip := some (ip + bytes), out := some (copyBytes m (out.length - (d + 1)) out),
        src := some ((out.length - (d + 1) + m : Nat) : Int), cnt := some 0,
        flags := some (shiftFlags f), nbits := some (countBits k) } := by
  unfold lzRefStep
  rcases s.ip with _ | ip
  · simp
  rcases s.out with _ | out
  · simp
  by_cases hneg : sourceIndex out.length d < 0
  · simp [hneg, raise, Int.not_le.2 hneg]
  rcases s.dsize with _ | size
  · simp [hneg]
  have hpos := Int.not_lt.1 hneg
  rcases hm : overrun s.params.lzOverrun out.length size.toNat n <;> simp [hneg, hpos, hm, afterToken_eq_ok]

theorem lzRefStep_eq_raised {bytes d n : Nat} {s : State} {e : Err} : lzRefStep bytes d n s = .error (.raised e) ↔
    ∃ ip out, s.ip = some ip ∧ s.out = some out ∧
      ((sourceIndex out.length d < 0 ∧ e = ⟨.lzBackref, .decompress, sourceIndex out.length d⟩) ∨
       (0 ≤ sourceIndex out.length d ∧ ∃ size, s.dsize = some size ∧
          overrun s.params.lzOverrun out.length size.toNat n = .error (.raised e))) := by
  unfold lzRefStep
  rcases s.ip with _ | ip
  · simp
  rcases s.out with _ | out
  · simp
  by_cases hneg : sourceIndex out.length d < 0
  · simp [hneg, raise, Int.not_le.2 hneg, eq_comm]
  rcases s.dsize with _ | size
  · simp [hneg]
  have hpos := Int.not_lt.1 hneg
  rcases hm : overrun s.params.lzOverrun out.length size.toNat n <;> simp [hneg, hpos, hm, afterToken_not_raised]

/-- HDR.PARSE (40_header R151). -/
theorem hdrParseStep_eq_ok {s t : State} : hdrParseStep s = .ok t ↔
    ∃ wb hb d, s.wb = some wb ∧ s.hb = some hb ∧ hb.toNat + 0x20 ≤ wb.length ∧
      decodeHeader s.params ((wb.drop hb.toNat).take 0x20) = .ok d ∧ leaveHdr d (loadDsc d s) = .ok t := by
  unfold hdrParseStep
  rcases s.wb with _ | wb
  · simp
  rcases s.hb with _ | hb
  · simp
  by_cases hshort : wb.length < hb.toNat + 0x20
  · simp [hshort, raise, Nat.not_le.2 hshort]
  · rcases hd : decodeHeader s.params ((wb.drop hb.toNat).take 0x20) <;> simp [hshort, Nat.not_lt.1 hshort, hd, raise]

/-- The errors of HDR.PARSE, in their order (40_header R157). -/
theorem hdrParseStep_eq_raised {s : State} {e : Err} : hdrParseStep s = .error (.raised e) ↔
    ∃ wb hb, s.wb = some wb ∧ s.hb = some hb ∧
      ((wb.length < hb.toNat + 0x20 ∧ e = ⟨.outOfRange, .header, (hb.toNat : Int)⟩) ∨
       (hb.toNat + 0x20 ≤ wb.length ∧ ∃ raw,
          decodeHeader s.params ((wb.drop hb.toNat).take 0x20) = .badFormat raw ∧ e = ⟨.unknownFormat, .header, (raw.toNat : Int)⟩) ∨
       (hb.toNat + 0x20 ≤ wb.length ∧ ∃ raw,
          decodeHeader s.params ((wb.drop hb.toNat).take 0x20) = .badPalFormat raw ∧
          e = ⟨.unknownPaletteFormat, .header, (raw.toNat : Int)⟩)) := by
  unfold hdrParseStep
  rcases s.wb with _ | wb
  · simp
  rcases s.hb with _ | hb
  · simp
  by_cases hshort : wb.length < hb.toNat + 0x20
  · simp [hshort, raise, Nat.not_le.2 hshort, eq_comm]
  · rcases hd : decodeHeader s.params ((wb.drop hb.toNat).take 0x20) <;>
      simp [hshort, Nat.not_lt.1 hshort, hd, raise, leaveHdr_not_raised, eq_comm]

theorem readDsc_not_raised (s : State) (e : Err) : readDsc s ≠ .error (.raised e) := by
  unfold readDsc
  split
  · rcases s.dsc with _ | d <;> simp
  · simp [faultWith]

/-- PAL.DECODE (41_palette R180, R181): no entries without an indexed format or a colour count, else those of the region. -/
theorem palDecodeStep_eq_ok {s t : State} : palDecodeStep s = .ok t ↔
    ∃ d pal, readDsc s = .ok d ∧ t = enterPhase .asm { s with pal := some pal } ∧
      ((isIndexed d.format = false ∧ pal = []) ∨
       (isIndexed d.format = true ∧ d.colorCount.toNat = 0 ∧ s.hb.isSome = true ∧ pal = []) ∨
       (isIndexed d.format = true ∧ d.colorCount.toNat ≠ 0 ∧ ∃ hb wb, s.hb = some hb ∧ s.wb = some wb ∧
          hb.toNat + d.palOff.toNat + 2 * d.colorCount.toNat ≤ wb.length ∧
          pal = (paletteEntries d.colorCount.toNat (wb.drop (hb.toNat + d.palOff.toNat))).map (palConvert d.palFmt))) := by
  unfold palDecodeStep
  rcases readDsc s with e | d
  · simp
  rcases hi : isIndexed d.format
  · simp [hi, @eq_comm _ t]
  rcases s.hb with _ | hb
  · simp [hi]
  by_cases hn : d.colorCount.toNat = 0
  · simp [hi, hn, @eq_comm _ t]
  rcases s.wb with _ | wb
  · simp [hi, hn]
  by_cases hshort : wb.length < hb.toNat + d.palOff.toNat + 2 * d.colorCount.toNat
  · simp [hi, hn, hshort, raise, Nat.not_le.2 hshort]
  · simp [hi, hn, hshort, Nat.not_lt.1 hshort, @eq_comm _ t]

/-- The error of PAL.DECODE (41_palette R182). -/
theorem palDecodeStep_eq_raised {s : State} {e : Err} : palDecodeStep s = .error (.raised e) ↔
    ∃ d hb wb, readDsc s = .ok d ∧ isIndexed d.format = true ∧ d.colorCount.toNat ≠ 0 ∧ s.hb = some hb ∧ s.wb = some wb ∧
      wb.length < hb.toNat + d.palOff.toNat + 2 * d.colorCount.toNat ∧
      e = ⟨.outOfRange, .palette, ((hb.toNat + d.palOff.toNat : Nat) : Int)⟩ := by
  unfold palDecodeStep
  rcases hd : readDsc s with x | d
  · have : x ≠ .raised e := fun h => readDsc_not_raised s e (h ▸ hd)
    simp [this]
  rcases hi : isIndexed d.format
  · simp [hi]
  rcases s.hb with _ | hb
  · simp [hi]
  by_cases hn : d.colorCount.toNat = 0
  · simp [hi, hn]
  rcases s.wb with _ | wb
  · simp [hi, hn]
  by_cases hshort : wb.length < hb.toNat + d.palOff.toNat + 2 * d.colorCount.toNat
  · simp [hi, hn, hshort, raise, @eq_comm _ e]
  · simp [hi, hn, hshort]

/-- ASM.START (43_assembler R272). -/
theorem asmStartStep_eq_ok {s t : State} : asmStartStep s = .ok t ↔ ∃ d, readDsc s = .ok d ∧
    t = asmNext (decide (d.width.toNat = 0 ∨ d.height.toNat = 0)) d (newPixBuf d.width.toNat d.height.toNat)
      { s with pb := some (newPixBuf d.width.toNat d.height.toNat), bX := some 0, bY := some 0, bK := some 0 } := by
  unfold asmStartStep
  rcases readDsc s with e | d <;> simp [@eq_comm _ t]

/-- What ASM.BLOCK leaves after placing the results `rs` of block `k`, whose origin is `(bx, oy)` (43_assembler R273). -/
def afterBlock (d : Dsc) (g : Geom) (k bx oy : Nat) (pb : PixBuf) (rs : List (Option Rgba)) (s : State) : State :=
  let pb1 := placeFrom d.width.toNat d.height.toNat bx oy g.bw 0 rs pb
  let oy1 := nextBY d.width.toNat g.bw g.bh bx oy
  asmNext (decide (d.height.toNat ≤ oy1)) d pb1
    { s with
      blk := none, rslt := some rs, pb := some pb1, bK := some (k + 1), bX := some (nextBX d.width.toNat g.bw bx), bY := some oy1 }

/-- The registers of the walk that ASM.BLOCK reads (43_assembler R273, R274). -/
def BlockInputs (s : State) (d : Dsc) (g : Geom) (wb : List Byte) (hb : Word) (k : Nat) : Prop :=
  readDsc s = .ok d ∧ s.geom = some g ∧ s.wb = some wb ∧ s.hb = some hb ∧ s.bK = some k

/-- ASM.BLOCK (43_assembler R273): the whole window lies in WB, and holds the bytes the format reads. -/
theorem asmBlockStep_eq_ok {s t : State} : asmBlockStep s = .ok t ↔
    ∃ d g wb hb k bx oy pb pal, BlockInputs s d g wb hb k ∧ s.bX = some bx ∧ s.bY = some oy ∧ s.pb = some pb ∧
      blockAddress hb d.imgOff k g.bbytes + g.bbytes ≤ wb.length ∧ blockBytes d.format ≤ g.bbytes ∧
      (isIndexed d.format = true → s.pal = some pal) ∧ (isIndexed d.format = false → pal = []) ∧
      t = afterBlock d g k bx oy pb
        (blockDecode s.params d.format ((wb.drop (blockAddress hb d.imgOff k g.bbytes)).take g.bbytes) pal) s := by
  constructor
  · intro h
    unfold asmBlockStep at h
    simp only [res_bind_eq_ok, need_eq_ok] at h
    obtain ⟨d, hd, g, hg, wb, hwb, hb, hhb, k, hk, h⟩ := h
    split at h
    · cases h
    · simp only [res_bind_eq_ok, need_eq_ok] at h
      obtain ⟨u, hu, rs, hrs, bx, hbx, oy, hoy, pb, hpb, h⟩ := h
      obtain ⟨blk, pal, hblk, hlen, hpal, hnil, rfl⟩ := runFormat_eq_ok.1 hu
      cases hblk
      cases hrs
      cases h
      simp only [List.length_take, List.length_drop] at hlen
      exact ⟨d, g, wb, hb, k, bx, oy, pb, pal, ⟨hd, hg, hwb, hhb, hk⟩, hbx, hoy, hpb, by omega, by omega, hpal, hnil, rfl⟩
  · rintro ⟨d, g, wb, hb, k, bx, oy, pb, pal, ⟨hd, hg, hwb, hhb, hk⟩, hbx, hoy, hpb, hin, hbytes, hpal, hnil, rfl⟩
    have hlen : blockBytes d.format ≤ ((wb.drop (blockAddress hb d.imgOff k g.bbytes)).take g.bbytes).length := by
      simp only [List.length_take, List.length_drop]
      omega
    unfold asmBlockStep
    simp only [res_bind_eq_ok, need_eq_ok]
    refine ⟨d, hd, g, hg, wb, hwb, hb, hhb, k, hk, ?_⟩
    rw [if_neg (Nat.not_lt.2 hin)]
    simp only [res_bind_eq_ok, need_eq_ok]
    exact ⟨_, runFormat_eq_ok.2 ⟨_, pal, rfl, hlen, hpal, hnil, rfl⟩, _, rfl, bx, hbx, oy, hoy, pb, hpb, rfl⟩

/-- The error of ASM.BLOCK (43_assembler R275). -/
theorem asmBlockStep_eq_raised {s : State} {e : Err} : asmBlockStep s = .error (.raised e) ↔
    ∃ d g wb hb k, BlockInputs s d g wb hb k ∧ wb.length < blockAddress hb d.imgOff k g.bbytes + g.bbytes ∧
      e = ⟨.outOfRange, .block, (blockAddress hb d.imgOff k g.bbytes : Int)⟩ := by
  unfold asmBlockStep BlockInputs
  rcases hd : readDsc s with x | d
  · have : x ≠ .raised e := fun h => readDsc_not_raised s e (h ▸ hd)
    simp [this]
  rcases s.geom with _ | g
  · simp
  rcases s.wb with _ | wb
  · simp
  rcases s.hb with _ | hb
  · simp
  rcases s.bK with _ | k
  · simp
  by_cases hshort : wb.length < blockAddress hb d.imgOff k g.bbytes + g.bbytes
  · simp [hshort, raise, @eq_comm _ e]
  · simp only [res_ok_bind, need_some, if_neg hshort, res_bind_eq_raised, runFormat_not_raised, need_not_raised]
    simp [hshort]

end Sys2Proof.Machine

namespace Sys2Proof.Machine

/-! ## The canonical form of the pixel buffers -/

/-- The canonical form rests on PB and RES_PB alone. -/
theorem memory_wf_of_eq {s t : State} (h : Memory.wf s = true) (hpb : t.pb = s.pb) (hres : t.resPb = s.resPb) : Memory.wf t = true := by
  unfold Memory.wf at *
  rwa [hpb, hres]

/-- Clearing RES_PB keeps the canonical form; an error does that (60_exceptions R380). -/
theorem memory_wf_of_cleared {s t : State} (h : Memory.wf s = true) (hpb : t.pb = s.pb) (hres : t.resPb = none) : Memory.wf t = true := by
  rw [memory_wf_iff] at *
  rw [hpb, hres]
  exact ⟨h.1, fun _ hc => nomatch hc⟩

/-- A unit that keeps the canonical form keeps it when it is settled, whatever it answers. -/
theorem settle_memory_wf {s t : State} {r : Res State} (hs : Memory.wf s = true) (hr : ∀ u, r = .ok u → Memory.wf u = true)
    (h : settle s r = .next t) : Memory.wf t = true := by
  obtain hok | ⟨e, -, rfl⟩ := settle_eq_next.1 h
  · exact hr t hok
  · exact memory_wf_of_cleared hs rfl rfl

/-- An operation starts with no pixel buffer at all. -/
theorem startWhenFree_memory_wf {s t u : State} (hpb : u.pb = none) (hres : u.resPb = none) (h : startWhenFree s u = .next t) :
    Memory.wf t = true := by
  unfold startWhenFree at h
  split at h
  · cases h
  · cases h
    simp [Memory.wf, hpb, hres]

theorem leaveLz_memory_wf {l : List Byte} {s t : State} (hs : Memory.wf s = true) (h : leaveLz l s = .ok t) : Memory.wf t = true := by
  obtain ⟨-, rfl⟩ | ⟨-, rfl⟩ := leaveLz_eq_ok.1 h <;> exact memory_wf_of_eq hs rfl rfl

theorem lzDetectStep_memory_wf {s t : State} (hs : Memory.wf s = true) (h : lzDetectStep s = .ok t) : Memory.wf t = true := by
  obtain ⟨inp, -, ⟨-, size, -, rfl⟩ | ⟨-, hleave⟩⟩ := lzDetectStep_eq_ok.1 h
  · exact memory_wf_of_eq hs rfl rfl
  · exact leaveLz_memory_wf hs hleave

theorem lzCtrlStep_memory_wf {f : Byte} {s t : State} (hs : Memory.wf s = true) (h : lzCtrlStep f s = .ok t) : Memory.wf t = true := by
  obtain ⟨ip, -, rfl⟩ := lzCtrlStep_eq_ok.1 h
  exact memory_wf_of_eq hs rfl rfl

theorem lzLitStep_memory_wf {b : Byte} {s t : State} (hs : Memory.wf s = true) (h : lzLitStep b s = .ok t) : Memory.wf t = true := by
  obtain ⟨ip, out, f, n, -, -, -, -, rfl⟩ := lzLitStep_eq_ok.1 h
  exact memory_wf_of_eq hs rfl rfl

theorem lzRefStep_memory_wf {bytes d n : Nat} {s t : State} (hs : Memory.wf s = true) (h : lzRefStep bytes d n s = .ok t) :
    Memory.wf t = true := by
  obtain ⟨ip, out, size, m, f, k, -, -, -, -, -, -, -, rfl⟩ := lzRefStep_eq_ok.1 h
  exact memory_wf_of_eq hs rfl rfl

theorem hdrParseStep_memory_wf {s t : State} (hs : Memory.wf s = true) (h : hdrParseStep s = .ok t) : Memory.wf t = true := by
  obtain ⟨wb, hb, d, -, -, -, -, hleave⟩ := hdrParseStep_eq_ok.1 h
  obtain ⟨-, rfl⟩ | ⟨-, rfl⟩ := leaveHdr_eq_ok.1 hleave <;> exact memory_wf_of_eq hs rfl rfl

theorem palDecodeStep_memory_wf {s t : State} (hs : Memory.wf s = true) (h : palDecodeStep s = .ok t) : Memory.wf t = true := by
  obtain ⟨d, pal, -, rfl, -⟩ := palDecodeStep_eq_ok.1 h
  exact memory_wf_of_eq hs rfl rfl

theorem pushEntry_memory_wf {c : Rgba} {s t : State} (hs : Memory.wf s = true) (h : pushEntry c s = .ok t) : Memory.wf t = true := by
  obtain ⟨pal, -, rfl⟩ := pushEntry_eq_ok.1 h
  exact memory_wf_of_eq hs rfl rfl

theorem runFormat_memory_wf {f : PixFmt} {s t : State} (hs : Memory.wf s = true) (h : runFormat f s = .ok t) : Memory.wf t = true := by
  obtain ⟨blk, pal, -, -, -, -, rfl⟩ := runFormat_eq_ok.1 h
  exact memory_wf_of_eq hs rfl rfl

/-- Finishing delivers a buffer in canonical form, and going on leaves RES_PB alone. -/
theorem asmNext_memory_wf {finished : Bool} {d : Dsc} {pb : PixBuf} {s : State} (hpb : pixBufWf pb = true) (hs : Memory.wf s = true) :
    Memory.wf (asmNext finished d pb s) = true := by
  rcases finished
  · exact memory_wf_of_eq hs rfl rfl
  · simp only [memory_wf_iff, asmNext, if_true, finishAsm_pb, finishAsm_resPb] at hs ⊢
    exact ⟨hs.1, fun q hq => Option.some.inj hq ▸ hpb⟩

/-- Writing a buffer in canonical form to PB. -/
theorem memory_wf_of_pb {s t : State} {pb : PixBuf} (h : Memory.wf s = true) (hpb : pixBufWf pb = true) (ht : t.pb = some pb)
    (hres : t.resPb = s.resPb) : Memory.wf t = true := by
  rw [memory_wf_iff] at *
  rw [ht, hres]
  exact ⟨fun q hq => Option.some.inj hq ▸ hpb, h.2⟩

theorem asmStartStep_memory_wf {s t : State} (hs : Memory.wf s = true) (h : asmStartStep s = .ok t) : Memory.wf t = true := by
  obtain ⟨d, -, rfl⟩ := asmStartStep_eq_ok.1 h
  exact asmNext_memory_wf (newPixBuf_wf _ _) (memory_wf_of_pb hs (newPixBuf_wf _ _) rfl rfl)

theorem asmBlockStep_memory_wf {s t : State} (hs : Memory.wf s = true) (h : asmBlockStep s = .ok t) : Memory.wf t = true := by
  obtain ⟨d, g, wb, hb, k, bx, oy, pb, pal, -, -, -, hpb, -, -, -, -, rfl⟩ := asmBlockStep_eq_ok.1 h
  have hplaced := fun rs => placeFrom_wf d.width.toNat d.height.toNat bx oy g.bw 0 rs (((memory_wf_iff s).1 hs).1 pb hpb)
  exact asmNext_memory_wf (hplaced _) (memory_wf_of_pb hs (hplaced _) rfl rfl)

/-- Every instruction keeps the canonical form. -/
theorem exec_memory_wf {i : Instr} {s t : State} (hs : Memory.wf s = true) (h : exec i s = .next t) : Memory.wf t = true := by
  cases i with
  | lzCtrl f => exact settle_memory_wf hs (fun _ => lzCtrlStep_memory_wf hs) h
  | lzLit b => exact settle_memory_wf hs (fun _ => lzLitStep_memory_wf hs) h
  | lzRefs n d => exact settle_memory_wf hs (fun _ => lzRefStep_memory_wf hs) h
  | lzRefl d m => exact settle_memory_wf hs (fun _ => lzRefStep_memory_wf hs) h
  | fmtI4 | fmtI8 | fmtIA4 | fmtIA8 | fmtRGB565 | fmtRGB5A3 | fmtRGBA32 | fmtC4 | fmtC8 | fmtC14X2 | fmtCMPR =>
    exact settle_memory_wf hs (fun _ => runFormat_memory_wf hs) h
  | palfmtIA8 e | palfmtRGB565 e | palfmtRGB5A3 e => exact settle_memory_wf hs (fun _ => pushEntry_memory_wf hs) h
  | opDecompress inp hb | opParseHeader inp hb | opDecode inp hb => exact startWhenFree_memory_wf rfl rfl h
  | lzDetect => exact settle_memory_wf hs (fun _ => lzDetectStep_memory_wf hs) h
  | hdrParse => exact settle_memory_wf hs (fun _ => hdrParseStep_memory_wf hs) h
  | palDecode => exact settle_memory_wf hs (fun _ => palDecodeStep_memory_wf hs) h
  | asmStart => exact settle_memory_wf hs (fun _ => asmStartStep_memory_wf hs) h
  | asmBlock => exact settle_memory_wf hs (fun _ => asmBlockStep_memory_wf hs) h

/-- Two instructions as one step: both answer, and an error of the second is entered from the first's state (notes/assumptions/12.md). -/
theorem execTwo_eq_next {c i : Instr} {s t : State} : execTwo c i s = .next t ↔
    ∃ u v, exec c s = .next u ∧ exec i u = .next v ∧ t = if v.phase = .error then abortTo s v else v := by
  unfold execTwo
  rcases exec c s with u | f | r
  · rcases hv : exec i u with v | f | r <;> simp [hv, @eq_comm _ t]
  · simp
  · simp

/-- What the sequencer selects keeps the canonical form when it is done. -/
theorem perform_memory_wf {todo : Todo} {s t : State} (hs : Memory.wf s = true) (h : perform todo s = .next t) : Memory.wf t = true := by
  cases todo with
  | wait | drop rest | complete =>
    cases h
    exact memory_wf_of_eq hs rfl rfl
  | request i rest => exact exec_memory_wf (s := { s with requests := rest }) (memory_wf_of_eq hs rfl rfl) h
  | lzFinish out => exact settle_memory_wf hs (fun _ => leaveLz_memory_wf hs) h
  | one i => exact exec_memory_wf hs h
  | two c i =>
    obtain ⟨u, v, hu, hv, rfl⟩ := execTwo_eq_next.1 h
    split
    · exact memory_wf_of_cleared hs rfl rfl
    · exact exec_memory_wf (exec_memory_wf hs hu) hv

/-- Settles O52: whatever is fetched keeps the form (`perform_memory_wf`), and an error that the fetch raises writes no buffer. -/
theorem stepKeepsMemoryCanonical : Obligations.StepKeepsMemoryCanonical := by
  unfold Obligations.StepKeepsMemoryCanonical
  intro s t hs h
  obtain ⟨todo, -, hstep⟩ | ⟨e, -, hstep⟩ | ⟨f, -, hstep⟩ := step_cases s <;> rw [hstep] at h
  · exact perform_memory_wf hs h
  · cases h
    exact memory_wf_of_cleared hs rfl rfl
  · cases h

end Sys2Proof.Machine

namespace Sys2Proof.Machine

/-! ## Every state that meets the invariant has a next one

The canonical form of the pixel buffers is `stepKeepsMemoryCanonical`; what is left of the invariant is `Live`, and a live state steps to a live
state. A unit that runs in its phase answers (`Answers`) a live state, or an error that 60_exceptions R371 lists. -/

/-- The invariant without the canonical form of the pixel buffers. -/
structure Live (s : State) : Prop where
  statusWf : StatusWf s
  ready : Ready s
  blk : s.blk = none

/-- What a unit answers when no fault stops it: a state that `P` holds of, or a listed error (60_exceptions R371). -/
def Answers (P : State → Prop) (r : Res State) : Prop :=
  (∃ t, r = .ok t ∧ P t) ∨ ∃ e, r = .error (.raised e) ∧ legalError e.code e.stage = true

theorem inv_iff_live {s : State} : Inv s ↔ Live s ∧ Memory.wf s = true := by
  constructor
  · rintro ⟨hstatus, hready, hmem, hblk⟩
    exact ⟨⟨hstatus, hready, hblk⟩, hmem⟩
  · rintro ⟨⟨hstatus, hready, hblk⟩, hmem⟩
    exact ⟨hstatus, hready, hmem, hblk⟩

/-- Inside an operation STATUS says BUSY and names no error (45_operations R341). -/
theorem statusWf_iff_of_busy {s : State} (hb : busyPhase s.phase = true) : StatusWf s ↔ s.status = ⟨.busy, .none, .none, none⟩ := by
  unfold StatusWf
  rcases hst : s.status with ⟨st, stage, code, addr⟩
  rcases hp : s.phase <;> simp_all [busyPhase, stateOf]

/-- A listed error leaves a state that the invariant allows (60_exceptions R380). -/
theorem live_of_error {s : State} (hp : s.phase = .error) (hst : s.status.state = .error)
    (hlegal : legalError s.status.errCode s.status.errStage = true) (haddr : s.status.errAddr.isSome = true) (hres : noResults s)
    (hblk : s.blk = none) : Live s := by
  refine ⟨⟨?_, fun hne => absurd hp hne, fun _ => ⟨hlegal, haddr, hres⟩⟩, ?_, hblk⟩
  · rw [hst, hp]
    rfl
  · simp only [Ready, hp]

theorem live_raiseError {s : State} {e : Err} (hblk : s.blk = none) (he : legalError e.code e.stage = true) : Live (raiseError e s) :=
  live_of_error rfl rfl he rfl ⟨rfl, rfl, rfl, rfl⟩ hblk

/-- A settled unit that answers has a live next state. -/
theorem settle_live {s : State} {r : Res State} (hblk : s.blk = none) (h : Answers Live r) : ∃ t, settle s r = .next t ∧ Live t := by
  obtain ⟨t, rfl, ht⟩ | ⟨e, rfl, he⟩ := h
  · exact ⟨t, rfl, ht⟩
  · exact ⟨raiseError e s, rfl, live_raiseError hblk he⟩

/-- A step inside the operation that leaves STATUS and BLK as they are is live when the next step is ready. -/
theorem Live.stays_busy {s t : State} (h : Live s) (hb : busyPhase s.phase = true) (hb' : busyPhase t.phase = true)
    (hst : t.status = s.status) (hblk : t.blk = s.blk) (hr : Ready t) : Live t := by
  obtain ⟨hstatus, -, hnone⟩ := h
  refine ⟨(statusWf_iff_of_busy hb').2 ?_, hr, hblk.trans hnone⟩
  rw [hst]
  exact (statusWf_iff_of_busy hb).1 hstatus

/-! ### The LZ phase -/

/-- Leaving LZ, from the detection or from the loop (45_operations R346). -/
theorem leaveLz_live {s : State} (h : Live s) (hp : s.phase = .lz) (hop : s.op = some .decompress ∨ s.op = some .decode)
    (hhb : s.hb.isSome = true) (l : List Byte) : Answers Live (leaveLz l s) := by
  have hb : busyPhase s.phase = true := by rw [hp]; rfl
  obtain hop | hop := hop
  · refine .inl ⟨_, leaveLz_eq_ok.2 (.inl ⟨hop, rfl⟩), h.stays_busy hb hb rfl rfl ?_⟩
    simp only [Ready, hp]
    exact ⟨hop, rfl⟩
  · refine .inl ⟨_, leaveLz_eq_ok.2 (.inr ⟨hop, rfl⟩), h.stays_busy hb rfl rfl rfl ?_⟩
    exact ⟨.inr hop, hhb, rfl⟩

theorem lzDetectStep_live {s : State} (h : Live s) (hp : s.phase = .lz) (hs : s.seq = .first) : Answers Live (lzDetectStep s) := by
  have hb : busyPhase s.phase = true := by rw [hp]; rfl
  have hready := h.ready
  simp only [Ready, hp, hs] at hready
  obtain ⟨hop, hhb, hinp⟩ := hready
  obtain ⟨inp, hinp⟩ := Option.isSome_iff_exists.1 hinp
  cases htag : isTagged s.params inp with
  | false =>
    obtain ⟨t, hok, ht⟩ | ⟨e, he, -⟩ := leaveLz_live h hp hop hhb inp
    · exact .inl ⟨t, lzDetectStep_eq_ok.2 ⟨inp, hinp, .inr ⟨htag, hok⟩⟩, ht⟩
    · exact absurd he (leaveLz_not_raised inp s e)
  | true =>
    cases hsize : memRead inp 4 4 with
    | none => exact .inr ⟨_, lzDetectStep_eq_raised.2 ⟨inp, hinp, htag, hsize, rfl⟩, rfl⟩
    | some size =>
      refine .inl ⟨_, lzDetectStep_eq_ok.2 ⟨inp, hinp, .inl ⟨htag, size, hsize, rfl⟩⟩, h.stays_busy hb hb rfl rfl ?_⟩
      simp only [Ready, lzInit_phase, hp, lzInit_seq]
      exact ⟨hop, hhb, by simp [hinp], rfl, rfl, rfl, rfl, 0, rfl, by omega⟩

/-- The values of the LZ registers inside the loop, which every token reads (44_lz_stream R306). -/
structure LzRegs (s : State) (inp out : List Byte) (size : Word) (ip : Nat) (f : Byte) (n : Nat) : Prop where
  op : s.op = some .decompress ∨ s.op = some .decode
  hb : s.hb.isSome = true
  inp : s.inp = some inp
  out : s.out = some out
  dsize : s.dsize = some size
  ip : s.ip = some ip
  flags : s.flags = some f
  nbits : s.nbits = some n
  nbits_le : n ≤ 8

theorem ready_loop_iff {s : State} (hp : s.phase = .lz) (hs : s.seq = .loop) :
    Ready s ↔ ∃ inp out size ip f n, LzRegs s inp out size ip f n := by
  simp only [Ready, hp, hs, Option.isSome_iff_exists]
  constructor
  · rintro ⟨hop, hhb, ⟨inp, hinp⟩, ⟨ip, hip⟩, ⟨out, hout⟩, ⟨size, hsize⟩, ⟨f, hf⟩, n, hn, hle⟩
    exact ⟨inp, out, size, ip, f, n, hop, Option.isSome_iff_exists.2 hhb, hinp, hout, hsize, hip, hf, hn, hle⟩
  · rintro ⟨inp, out, size, ip, f, n, h⟩
    exact ⟨h.op, Option.isSome_iff_exists.1 h.hb, ⟨inp, h.inp⟩, ⟨ip, h.ip⟩, ⟨out, h.out⟩, ⟨size, h.dsize⟩, ⟨f, h.flags⟩,
      n, h.nbits, h.nbits_le⟩

/-- The loop goes on: a step that leaves phase, STATUS and BLK alone and the LZ registers with values. -/
theorem Live.stays_in_loop {s t : State} (h : Live s) (hp : s.phase = .lz) (hp' : t.phase = .lz) (hs' : t.seq = .loop)
    (hst : t.status = s.status) (hblk : t.blk = s.blk) (hregs : ∃ inp out size ip f n, LzRegs t inp out size ip f n) : Live t :=
  h.stays_busy (by rw [hp]; rfl) (by rw [hp']; rfl) hst hblk ((ready_loop_iff hp' hs').2 hregs)

theorem lzCtrlStep_live {s : State} (h : Live s) (hp : s.phase = .lz) (hs : s.seq = .loop) (f : Byte) :
    ∃ t, lzCtrlStep f s = .ok t ∧ Live t ∧ t.phase = .lz ∧ t.seq = .loop := by
  obtain ⟨inp, out, size, ip, _, n, r⟩ := (ready_loop_iff hp hs).1 h.ready
  refine ⟨_, lzCtrlStep_eq_ok.2 ⟨ip, r.ip, rfl⟩, h.stays_in_loop hp hp hs rfl rfl ?_, hp, hs⟩
  exact ⟨_, _, _, _, _, _, r.op, r.hb, r.inp, r.out, r.dsize, rfl, rfl, rfl, by decide⟩

theorem lzLitStep_live {s : State} (h : Live s) (hp : s.phase = .lz) (hs : s.seq = .loop) (b : Byte) : Answers Live (lzLitStep b s) := by
  obtain ⟨inp, out, size, ip, f, n, r⟩ := (ready_loop_iff hp hs).1 h.ready
  refine .inl ⟨_, lzLitStep_eq_ok.2 ⟨ip, out, f, n, r.ip, r.out, r.flags, r.nbits, rfl⟩, h.stays_in_loop hp hp hs rfl rfl ?_⟩
  exact ⟨_, _, _, _, _, _, r.op, r.hb, r.inp, rfl, r.dsize, rfl, rfl, rfl, (Nat.sub_le n 1).trans r.nbits_le⟩

/-- The overrun rule has an answer, or raises LzOverrun (44_lz_stream R322). -/
theorem overrun_cases (mode : Overrun) (m dsize n : Nat) : (∃ k, overrun mode m dsize n = .ok k) ∨
    ∃ e, overrun mode m dsize n = .error (.raised e) ∧ legalError e.code e.stage = true := by
  by_cases h : m + n ≤ dsize
  · exact .inl ⟨n, overrun_eq_ok.2 (.inl ⟨h, rfl⟩)⟩
  · have hlt : dsize < m + n := by omega
    cases mode with
    | fault => exact .inr ⟨_, overrun_eq_raised.2 ⟨hlt, rfl, rfl⟩, rfl⟩
    | truncate => exact .inl ⟨dsize - m, overrun_eq_ok.2 (.inr (.inl ⟨hlt, rfl, rfl⟩))⟩
    | extend => exact .inl ⟨n, overrun_eq_ok.2 (.inr (.inr ⟨hlt, rfl, rfl⟩))⟩

theorem lzRefStep_live {s : State} (h : Live s) (hp : s.phase = .lz) (hs : s.seq = .loop) (bytes d len : Nat) :
    Answers Live (lzRefStep bytes d len s) := by
  obtain ⟨inp, out, size, ip, f, n, r⟩ := (ready_loop_iff hp hs).1 h.ready
  by_cases hneg : sourceIndex out.length d < 0
  · exact .inr ⟨_, lzRefStep_eq_raised.2 ⟨ip, out, r.ip, r.out, .inl ⟨hneg, rfl⟩⟩, rfl⟩
  have hpos := Int.not_lt.1 hneg
  obtain ⟨m, hm⟩ | ⟨e, he, hlegal⟩ := overrun_cases s.params.lzOverrun out.length size.toNat len
  · refine .inl ⟨_, lzRefStep_eq_ok.2 ⟨ip, out, size, m, f, n, r.ip, r.out, r.dsize, hpos, hm, r.flags, r.nbits, rfl⟩,
      h.stays_in_loop hp hp hs rfl rfl ?_⟩
    exact ⟨_, _, _, _, _, _, r.op, r.hb, r.inp, rfl, r.dsize, rfl, rfl, rfl, (Nat.sub_le n 1).trans r.nbits_le⟩
  · exact .inr ⟨e, lzRefStep_eq_raised.2 ⟨ip, out, r.ip, r.out, .inr ⟨hpos, size, r.dsize, he⟩⟩, hlegal⟩

/-- A token that was fetched runs and leaves a live state. -/
theorem exec_token_live {s : State} (h : Live s) (hp : s.phase = .lz) (hs : s.seq = .loop) {p : Params} {lit : Bool} {inp : List Byte}
    {ip : Nat} {i : Instr} (hi : fetchToken p lit inp ip = .ok i) : ∃ t, exec i s = .next t ∧ Live t := by
  obtain ⟨j, rest, hj, hfetch⟩ | ⟨-, hfetch⟩ := fetchToken_cases p lit inp ip
  · obtain rfl : j = i := Except.ok.inj (hfetch.symm.trans hi)
    obtain ⟨b, rfl⟩ | ⟨n, d, rfl, -⟩ | ⟨d, m, rfl⟩ := decodeToken_eq_some hj
    · exact settle_live h.blk (lzLitStep_live h hp hs b)
    · exact settle_live h.blk (lzRefStep_live h hp hs 2 d.toNat (shortLength n))
    · exact settle_live h.blk (lzRefStep_live h hp hs 3 d.toNat (longLength m))
  · cases hfetch.symm.trans hi

/-- A token behind a control byte: an error of the token is entered from the state before the control byte (60_exceptions R380). -/
theorem execTwo_live {s : State} (h : Live s) (hp : s.phase = .lz) (hs : s.seq = .loop) {p : Params} {lit : Bool} {inp : List Byte}
    {ip : Nat} {i : Instr} (f : Byte) (hi : fetchToken p lit inp ip = .ok i) : ∃ t, execTwo (.lzCtrl f) i s = .next t ∧ Live t := by
  obtain ⟨u, hctrl, hu, hpu, hsu⟩ := lzCtrlStep_live h hp hs f
  obtain ⟨v, hv, hlive⟩ := exec_token_live hu hpu hsu hi
  have hexec : exec (.lzCtrl f) s = .next u := congrArg (settle s) hctrl
  refine ⟨_, execTwo_eq_next.2 ⟨u, v, hexec, hv, rfl⟩, ?_⟩
  by_cases herr : v.phase = .error
  · obtain ⟨hstate, -, hstatus⟩ := hlive.statusWf
    obtain ⟨hlegal, haddr, -⟩ := hstatus herr
    rw [if_pos herr]
    exact live_of_error rfl (by rw [abortTo_status, hstate, herr]; rfl) hlegal haddr ⟨rfl, rfl, rfl, rfl⟩ h.blk
  · rwa [if_neg herr]

/-- What one LZ.STEP finds to do, all registers holding values (44_lz_stream R306, R307, R312). -/
theorem fetchLz_cases {s : State} {inp out : List Byte} {size : Word} {ip : Nat} {f : Byte} {n : Nat} (r : LzRegs s inp out size ip f n) :
    fetchLz s = .ok (.lzFinish out) ∨
    (∃ a, fetchLz s = raise .lzTruncated .decompress a) ∨
    (∃ i, fetchToken s.params (controlBit f) inp ip = .ok i ∧ fetchLz s = .ok (.one i)) ∨
    (∃ c i, fetchToken s.params (controlBit c) inp (ip + 1) = .ok i ∧ fetchLz s = .ok (.two (.lzCtrl c) i)) := by
  unfold fetchLz
  simp only [r.inp, r.out, r.dsize, r.ip, r.flags, r.nbits, need_some, res_ok_bind]
  by_cases hfull : size.toNat ≤ out.length
  · exact .inl (if_pos hfull)
  rw [if_neg hfull]
  by_cases hn : n = 0
  · rw [if_pos hn]
    rcases inp.drop ip with _ | ⟨c, rest⟩
    · exact .inr (.inl ⟨_, rfl⟩)
    · obtain ⟨i, _, -, hi⟩ | ⟨-, hi⟩ := fetchToken_cases s.params (controlBit c) inp (ip + 1)
      · exact .inr (.inr (.inr ⟨c, i, hi, by simp [decode, hi]⟩))
      · exact .inr (.inl ⟨_, by simp only [decode]; rw [hi]; rfl⟩)
  · rw [if_neg hn]
    obtain ⟨i, _, -, hi⟩ | ⟨-, hi⟩ := fetchToken_cases s.params (controlBit f) inp ip
    · exact .inr (.inr (.inl ⟨i, hi, by rw [hi]; rfl⟩))
    · exact .inr (.inl ⟨_, by rw [hi]; rfl⟩)

theorem step_lz_loop_live {s : State} (h : Live s) (hp : s.phase = .lz) (hs : s.seq = .loop) : ∃ t, step s = .next t ∧ Live t := by
  obtain ⟨inp, out, size, ip, f, n, r⟩ := (ready_loop_iff hp hs).1 h.ready
  have hfetch := fetch_loop hp hs
  obtain hz | ⟨a, hz⟩ | ⟨i, hi, hz⟩ | ⟨c, i, hi, hz⟩ := fetchLz_cases r <;> rw [hz] at hfetch
  · rw [step_of_fetch hfetch]
    exact settle_live h.blk (leaveLz_live h hp r.op r.hb out)
  · rw [step_of_fetch_raise hfetch]
    exact ⟨_, rfl, live_raiseError h.blk rfl⟩
  · rw [step_of_fetch hfetch]
    exact exec_token_live h hp hs hi
  · rw [step_of_fetch hfetch]
    exact execTwo_live h hp hs c hi

/-! ### The header and palette phases -/

theorem hdrParseStep_live {s : State} (h : Live s) (hp : s.phase = .hdr) (hs : s.seq = .first) : Answers Live (hdrParseStep s) := by
  have hb : busyPhase s.phase = true := by rw [hp]; rfl
  have hready := h.ready
  simp only [Ready, hp, hs] at hready
  obtain ⟨hop, hhb, hwb⟩ := hready
  obtain ⟨wb, hwb'⟩ := Option.isSome_iff_exists.1 hwb
  obtain ⟨hbase, hhb'⟩ := Option.isSome_iff_exists.1 hhb
  by_cases hshort : wb.length < hbase.toNat + 0x20
  · exact .inr ⟨_, hdrParseStep_eq_raised.2 ⟨wb, hbase, hwb', hhb', .inl ⟨hshort, rfl⟩⟩, rfl⟩
  have hin := Nat.not_lt.1 hshort
  cases hd : decodeHeader s.params ((wb.drop hbase.toNat).take 0x20) with
  | badFormat raw => exact .inr ⟨_, hdrParseStep_eq_raised.2 ⟨wb, hbase, hwb', hhb', .inr (.inl ⟨hin, raw, hd, rfl⟩)⟩, rfl⟩
  | badPalFormat raw => exact .inr ⟨_, hdrParseStep_eq_raised.2 ⟨wb, hbase, hwb', hhb', .inr (.inr ⟨hin, raw, hd, rfl⟩)⟩, rfl⟩
  | ok d =>
    obtain hop | hop := hop
    · refine .inl ⟨_, hdrParseStep_eq_ok.2 ⟨wb, hbase, d, hwb', hhb', hin, hd, leaveHdr_eq_ok.2 (.inl ⟨hop, rfl⟩)⟩,
        h.stays_busy hb hb rfl rfl ?_⟩
      simp only [Ready, loadDsc_phase, hp]
      exact ⟨hop, rfl, rfl⟩
    · refine .inl ⟨_, hdrParseStep_eq_ok.2 ⟨wb, hbase, d, hwb', hhb', hin, hd, leaveHdr_eq_ok.2 (.inr ⟨hop, rfl⟩)⟩,
        h.stays_busy hb rfl rfl rfl ?_⟩
      exact ⟨hop, hhb, hwb, rfl, d, rfl, rfl, rfl⟩

theorem readDsc_of_loaded {s : State} {d : Dsc} (h : DscLoaded s d) : readDsc s = .ok d := by
  obtain ⟨hvalid, hd, -⟩ := h
  exact readDsc_eq_ok.2 ⟨hvalid, hd⟩

theorem palDecodeStep_live {s : State} (h : Live s) (hp : s.phase = .pal) (hs : s.seq = .first) : Answers Live (palDecodeStep s) := by
  have hb : busyPhase s.phase = true := by rw [hp]; rfl
  have hready := h.ready
  simp only [Ready, hp, hs] at hready
  obtain ⟨hop, hhb, hwb, hregion, d, hdsc⟩ := hready
  obtain ⟨wb, hwb'⟩ := Option.isSome_iff_exists.1 hwb
  obtain ⟨hbase, hhb'⟩ := Option.isSome_iff_exists.1 hhb
  have hread := readDsc_of_loaded hdsc
  have hlive (pal : List Rgba) : Live (enterPhase .asm { s with pal := some pal }) :=
    h.stays_busy hb rfl rfl rfl ⟨hop, hhb, hwb, hregion, rfl, d, hdsc⟩
  cases hi : isIndexed d.format with
  | false => exact .inl ⟨_, palDecodeStep_eq_ok.2 ⟨d, [], hread, rfl, .inl ⟨hi, rfl⟩⟩, hlive []⟩
  | true =>
    by_cases hn : d.colorCount.toNat = 0
    · exact .inl ⟨_, palDecodeStep_eq_ok.2 ⟨d, [], hread, rfl, .inr (.inl ⟨hi, hn, hhb, rfl⟩)⟩, hlive []⟩
    by_cases hshort : wb.length < hbase.toNat + d.palOff.toNat + 2 * d.colorCount.toNat
    · exact .inr ⟨_, palDecodeStep_eq_raised.2 ⟨d, hbase, wb, hread, hi, hn, hhb', hwb', hshort, rfl⟩, rfl⟩
    · exact .inl ⟨_, palDecodeStep_eq_ok.2
        ⟨d, _, hread, rfl, .inr (.inr ⟨hi, hn, hbase, wb, hhb', hwb', Nat.not_lt.1 hshort, rfl⟩)⟩, hlive _⟩

/-! ### The assembler -/

/-- ASM.START puts the walk before block 0, when there is one; an empty image is finished (43_assembler R272). -/
theorem asmStartStep_live {s : State} (h : Live s) (hp : s.phase = .asm) (hs : s.seq = .first) : Answers Live (asmStartStep s) := by
  have hb : busyPhase s.phase = true := by rw [hp]; rfl
  have hready := h.ready
  simp only [Ready, hp, hs] at hready
  obtain ⟨hop, hhb, hwb, hregion, hpal, d, hdsc⟩ := hready
  refine .inl ⟨_, asmStartStep_eq_ok.2 ⟨d, readDsc_of_loaded hdsc, rfl⟩, ?_⟩
  by_cases hempty : d.width.toNat = 0 ∨ d.height.toNat = 0
  · rw [decide_eq_true hempty]
    refine h.stays_busy hb hb rfl rfl ?_
    simp only [Ready, asmNext, if_true, finishAsm_phase, finishAsm_seq, hp]
    exact ⟨hop, rfl, rfl, hregion⟩
  · obtain ⟨hw, hh⟩ := not_or.1 hempty
    rw [decide_eq_false hempty]
    refine h.stays_busy hb hb rfl rfl ?_
    simp only [Ready, asmNext, hp]
    refine ⟨hop, hhb, hwb, hregion, hpal, d, 0, hdsc, rfl, nblk_pos hw hh, ?_, ?_, _, rfl, rfl, rfl⟩ <;> simp

/-- The buffer after the results of block `k` have been placed at the block's origin (43_assembler R273, R276). -/
def placeBlock (d : Dsc) (k : Nat) (rs : List (Option Rgba)) (pb : PixBuf) : PixBuf :=
  placeFrom d.width.toNat d.height.toNat (k % (geometryOf d).nbx * (geometryOf d).bw) (k / (geometryOf d).nbx * (geometryOf d).bh)
    (geometryOf d).bw 0 rs pb

@[simp] theorem placeBlock_width (d : Dsc) (k : Nat) (rs : List (Option Rgba)) (pb : PixBuf) : (placeBlock d k rs pb).width = pb.width :=
  placeFrom_width ..

@[simp] theorem placeBlock_height (d : Dsc) (k : Nat) (rs : List (Option Rgba)) (pb : PixBuf) :
    (placeBlock d k rs pb).height = pb.height :=
  placeFrom_height ..

/-- ASM.BLOCK takes the cursors from block `k` to block `k + 1`, and finishes after the last (43_assembler R273, R277). -/
theorem afterBlock_of_walk {d : Dsc} {k : Nat} (hk : k < (geometryOf d).nblk) (pb : PixBuf) (rs : List (Option Rgba)) (s : State) :
    afterBlock d (geometryOf d) k (k % (geometryOf d).nbx * (geometryOf d).bw) (k / (geometryOf d).nbx * (geometryOf d).bh) pb rs s =
      asmNext (decide ((geometryOf d).nblk ≤ k + 1)) d (placeBlock d k rs pb)
        { s with
          blk := none, rslt := some rs, pb := some (placeBlock d k rs pb), bK := some (k + 1)
          bX := some ((k + 1) % (geometryOf d).nbx * (geometryOf d).bw)
          bY := some ((k + 1) / (geometryOf d).nbx * (geometryOf d).bh) } := by
  have hw := width_pos_of_nblk hk
  simp only [afterBlock, placeBlock, nextBX_column hw, nextBY_row hw, height_le_row_iff hw]

/-- After block `k` the walk is before block `k + 1`, or the image is delivered. -/
theorem afterBlock_live {s : State} (h : Live s) (hp : s.phase = .asm) (hs : s.seq = .loop) {d : Dsc} {k : Nat} (hdsc : DscLoaded s d)
    (hk : k < (geometryOf d).nblk) {pb : PixBuf} (hwidth : pb.width = d.width.toNat) (hheight : pb.height = d.height.toNat)
    (rs : List (Option Rgba)) :
    Live (afterBlock d (geometryOf d) k (k % (geometryOf d).nbx * (geometryOf d).bw) (k / (geometryOf d).nbx * (geometryOf d).bh) pb rs s) := by
  have hb : busyPhase s.phase = true := by rw [hp]; rfl
  have hready := h.ready
  simp only [Ready, hp, hs] at hready
  obtain ⟨hop, hhb, hwb, hregion, hpal, -⟩ := hready
  rw [afterBlock_of_walk hk]
  by_cases hlast : (geometryOf d).nblk ≤ k + 1
  · rw [decide_eq_true hlast]
    refine h.stays_busy hb hb rfl h.blk.symm ?_
    simp only [Ready, asmNext, if_true, finishAsm_phase, finishAsm_seq, hp]
    exact ⟨hop, rfl, rfl, hregion⟩
  · rw [decide_eq_false hlast]
    refine h.stays_busy hb hb rfl h.blk.symm ?_
    simp only [Ready, asmNext, hp]
    exact ⟨hop, hhb, hwb, hregion, hpal, d, k + 1, hdsc, rfl, Nat.lt_of_not_le hlast, rfl, rfl, _, rfl,
      (placeBlock_width ..).trans hwidth, (placeBlock_height ..).trans hheight⟩

theorem asmBlockStep_live {s : State} (h : Live s) (hp : s.phase = .asm) (hs : s.seq = .loop) : Answers Live (asmBlockStep s) := by
  have hready := h.ready
  simp only [Ready, hp, hs] at hready
  obtain ⟨-, hhb, hwb, -, hpal, d, k, hdsc, hk, hlt, hbX, hbY, pb, hpb, hwidth, hheight⟩ := hready
  have hgeom : s.geom = some (geometryOf d) := hdsc.2.2
  obtain ⟨wb, hwb⟩ := Option.isSome_iff_exists.1 hwb
  obtain ⟨hbase, hhb⟩ := Option.isSome_iff_exists.1 hhb
  obtain ⟨pal, hpal⟩ := Option.isSome_iff_exists.1 hpal
  have hin : BlockInputs s d (geometryOf d) wb hbase k := ⟨readDsc_of_loaded hdsc, hgeom, hwb, hhb, hk⟩
  by_cases hshort : wb.length < blockAddress hbase d.imgOff k (geometryOf d).bbytes + (geometryOf d).bbytes
  · exact .inr ⟨_, asmBlockStep_eq_raised.2 ⟨d, geometryOf d, wb, hbase, k, hin, hshort, rfl⟩, rfl⟩
  · refine .inl ⟨_, asmBlockStep_eq_ok.2 ⟨d, geometryOf d, wb, hbase, k, _, _, pb, if isIndexed d.format then pal else [], hin, hbX, hbY, hpb,
      Nat.not_lt.1 hshort, Nat.le_refl _, fun hi => ?_, fun hi => ?_, rfl⟩, afterBlock_live h hp hs hdsc hlt hwidth hheight _⟩
    · rw [if_pos hi, hpal]
    · rw [hi]
      rfl

/-! ### The other steps -/

/-- Completion: what the last step of the operation left ready is what DONE delivers (45_operations R349, 10_state R70). -/
theorem completeOp_live {s : State} (h : Live s) (hb : busyPhase s.phase = true) (hs : s.seq = .complete) : Live (completeOp s) := by
  obtain ⟨hstatus, hready, hblk⟩ := h
  have hst := (statusWf_iff_of_busy hb).1 hstatus
  refine ⟨⟨rfl, fun _ => ?_, fun herr => nomatch herr⟩, ?_, hblk⟩
  · simp [hst]
  · cases hp : s.phase <;> simp only [Ready, hp, hs] at hready
    case lz | hdr | asm =>
      obtain ⟨hop, hresults⟩ := hready
      simp only [Ready, completeOp_phase, completeOp_op, hop]
      exact hresults
    case idle | done | error =>
      rw [hp] at hb
      cases hb

/-- The operation a request starts (30_encoding R124). -/
theorem decodeRequest_eq_some {r : Request} {i : Instr} (h : decodeRequest r = some i) :
    i = .opDecompress r.inp r.hb ∨ i = .opParseHeader r.inp r.hb ∨ i = .opDecode r.inp r.hb := by
  unfold decodeRequest at h
  split_ifs at h <;> cases h <;> simp

/-- What the host's requests give the engine to do (45_operations R341, 70_reset R411). -/
theorem fetchRequest_cases (s : State) :
    (s.requests = [] ∧ fetchRequest s = .ok .wait) ∨
    ∃ r rest, s.requests = r :: rest ∧
      ((decodeRequest r = none ∧ fetchRequest s = .ok (.drop rest)) ∨
       ∃ i, decodeRequest r = some i ∧ fetchRequest s = .ok (.request i rest)) := by
  unfold fetchRequest
  rcases s.requests with _ | ⟨r, rest⟩
  · exact .inl ⟨rfl, rfl⟩
  · refine .inr ⟨r, rest, rfl, ?_⟩
    cases hr : decodeRequest r <;> simp [decode, hr]

/-- A request that is legal starts its operation when the engine is free, and the operation is ready for its first step (45_operations R341). -/
theorem exec_request_live {s : State} (hfree : s.status.state ≠ .busy) {r : Request} {i : Instr} (hi : decodeRequest r = some i) :
    ∃ t, exec i s = .next t ∧ Live t := by
  obtain rfl | rfl | rfl := decodeRequest_eq_some hi <;> refine ⟨_, if_neg hfree, (statusWf_iff_of_busy rfl).2 rfl, ?_, rfl⟩
  · exact ⟨.inl rfl, rfl, rfl⟩
  · exact ⟨.inl rfl, rfl, rfl⟩
  · exact ⟨.inr rfl, rfl, rfl⟩

/-- Outside an operation the machine waits, drops a request, or starts one (70_reset R411). -/
theorem step_free_live {s : State} (h : Live s) (hb : busyPhase s.phase = false) : ∃ t, step s = .next t ∧ Live t := by
  have hfetch := fetch_outside hb
  have hfree : s.status.state ≠ .busy := by
    obtain ⟨hstate, -⟩ := h.statusWf
    rw [hstate]
    cases hp : s.phase <;> simp_all [busyPhase, stateOf]
  obtain ⟨-, hr⟩ | ⟨r, rest, -, ⟨-, hr⟩ | ⟨i, hi, hr⟩⟩ := fetchRequest_cases s <;> rw [step_of_fetch (hfetch.trans hr)]
  · exact ⟨s, rfl, h⟩
  · exact ⟨_, rfl, h.statusWf, h.ready, h.blk⟩
  · exact exec_request_live (s := { s with requests := rest }) hfree hi

/-- A unit step: the sequencer selects the unit of the phase, and it runs (45_operations R345). -/
theorem step_unit_live {s : State} {i : Instr} {r : Res State} (h : Live s) (hi : decodeSequencer s.phase s.seq = some i)
    (hexec : exec i s = settle s r) (hr : Answers Live r) : ∃ t, step s = .next t ∧ Live t := by
  have hstep : step s = settle s r := (step_of_fetch (fetch_of_unit hi)).trans hexec
  rw [hstep]
  exact settle_live h.blk hr

/-- The first step of a phase. -/
theorem step_first_live {s : State} (h : Live s) (hb : busyPhase s.phase = true) (hs : s.seq = .first) : ∃ t, step s = .next t ∧ Live t := by
  cases hp : s.phase with
  | lz => exact step_unit_live h (by rw [hp, hs]; rfl) rfl (lzDetectStep_live h hp hs)
  | hdr => exact step_unit_live h (by rw [hp, hs]; rfl) rfl (hdrParseStep_live h hp hs)
  | pal => exact step_unit_live h (by rw [hp, hs]; rfl) rfl (palDecodeStep_live h hp hs)
  | asm => exact step_unit_live h (by rw [hp, hs]; rfl) rfl (asmStartStep_live h hp hs)
  | idle | done | error => rw [hp] at hb; cases hb

/-- A repeated step; only LZ and ASM have one. -/
theorem step_loop_live {s : State} (h : Live s) (hb : busyPhase s.phase = true) (hs : s.seq = .loop) : ∃ t, step s = .next t ∧ Live t := by
  cases hp : s.phase with
  | lz => exact step_lz_loop_live h hp hs
  | asm => exact step_unit_live h (by rw [hp, hs]; rfl) rfl (asmBlockStep_live h hp hs)
  | hdr | pal =>
    have hready := h.ready
    simp only [Ready, hp, hs] at hready
  | idle | done | error => rw [hp] at hb; cases hb

/-- Every live state has a next state, and it is live. -/
theorem step_live {s : State} (h : Live s) : ∃ t, step s = .next t ∧ Live t := by
  cases hb : busyPhase s.phase with
  | false => exact step_free_live h hb
  | true =>
    cases hs : s.seq with
    | first => exact step_first_live h hb hs
    | loop => exact step_loop_live h hb hs
    | complete => exact ⟨completeOp s, step_of_fetch (fetch_complete hb hs), completeOp_live h hb hs⟩

/-- Settles O51: `step_live`, with O52 for the pixel buffers. -/
theorem stepKeepsTheInvariant : Obligations.StepKeepsTheInvariant := by
  unfold Obligations.StepKeepsTheInvariant
  intro s hinv
  obtain ⟨hlive, hmem⟩ := inv_iff_live.1 hinv
  obtain ⟨t, ht, hlive'⟩ := step_live hlive
  exact ⟨t, ht, inv_iff_live.2 ⟨hlive', stepKeepsMemoryCanonical s t hmem ht⟩⟩

end Sys2Proof.Machine

namespace Sys2Proof.Machine

/-! ## OUT only grows in the LZ loop

Each unit that the loop runs extends OUT; what extends composes, so an LZ.STEP that loads a control byte before its token extends it too. -/

/-- What one LZ.STEP finds to do (44_lz_stream R306): finish, a token, or a control byte and the token behind it. -/
theorem fetchLz_eq_ok {s : State} {todo : Todo} : fetchLz s = .ok todo ↔ ∃ out size, s.out = some out ∧ s.dsize = some size ∧
    ((size.toNat ≤ out.length ∧ todo = .lzFinish out) ∨
     (out.length < size.toNat ∧ ∃ inp ip n, s.inp = some inp ∧ s.ip = some ip ∧ s.nbits = some n ∧
        ((n = 0 ∧ ∃ c i, inp[ip]? = some c ∧ fetchToken s.params (controlBit c) inp (ip + 1) = .ok i ∧ todo = .two (.lzCtrl c) i) ∨
         (n ≠ 0 ∧ ∃ f i, s.flags = some f ∧ fetchToken s.params (controlBit f) inp ip = .ok i ∧ todo = .one i)))) := by
  unfold fetchLz
  rcases s.out with _ | out
  · simp
  rcases s.dsize with _ | size
  · simp
  by_cases hfull : size.toNat ≤ out.length
  · simp [hfull, Nat.not_lt.2 hfull, @eq_comm _ todo]
  rcases s.inp with _ | inp
  · simp [hfull]
  rcases s.ip with _ | ip
  · simp [hfull]
  rcases s.nbits with _ | n
  · simp [hfull]
  by_cases hn : n = 0
  · have hhead : inp[ip]? = (inp.drop ip).head? := List.head?_drop.symm
    rcases hbytes : inp.drop ip with _ | ⟨c, rest⟩
    · simp [hfull, hn, hhead, hbytes, decode, lzTruncated, raise]
    · simp [hfull, Nat.not_le.1 hfull, hn, hhead, hbytes, decode, res_bind_eq_ok, @eq_comm _ todo]
  · rcases s.flags with _ | f <;> simp [hfull, Nat.not_le.1 hfull, hn, res_bind_eq_ok, @eq_comm _ todo]

/-- What can be fetched as a token: a literal, or a short or a long back-reference (30_encoding R130). -/
theorem token_of_fetchToken {p : Params} {lit : Bool} {inp : List Byte} {ip : Nat} {i : Instr} (h : fetchToken p lit inp ip = .ok i) :
    (∃ b, i = .lzLit b) ∨ (∃ n d, i = .lzRefs n d ∧ n ≠ 0) ∨ ∃ d m, i = .lzRefl d m := by
  obtain ⟨j, rest, hj, hfetch⟩ | ⟨-, hfetch⟩ := fetchToken_cases p lit inp ip
  · obtain rfl : j = i := Except.ok.inj (hfetch.symm.trans h)
    exact decodeToken_eq_some hj
  · cases hfetch.symm.trans h

/-- `t` holds the output of `s`, and perhaps more bytes behind it (20_memory R95). -/
def OutExtends (s t : State) : Prop := ∀ out, s.out = some out → ∃ more, t.out = some (out ++ more)

theorem outExtends_of_eq {s t : State} (h : t.out = s.out) : OutExtends s t :=
  fun out hout => ⟨[], by rw [h, hout, List.append_nil]⟩

theorem OutExtends.trans {s t u : State} (hst : OutExtends s t) (htu : OutExtends t u) : OutExtends s u := by
  intro out hout
  obtain ⟨more, hmore⟩ := hst out hout
  obtain ⟨more', hmore'⟩ := htu _ hmore
  exact ⟨more ++ more', by rw [hmore', List.append_assoc]⟩

/-- The copy loop leaves the bytes it started with in front (44_lz_stream R321). -/
theorem copyBytes_eq_append (n src : Nat) (out : List Byte) : ∃ more, copyBytes n src out = out ++ more := by
  induction n generalizing src out with
  | zero => exact ⟨[], (List.append_nil out).symm⟩
  | succ n ih =>
    obtain ⟨more, hmore⟩ := ih (src + 1) (outPush out (out.getD src 0))
    exact ⟨out.getD src 0 :: more, hmore.trans (List.append_assoc _ _ _)⟩

/-- An error keeps OUT (notes/assumptions/17.md), so a unit whose result extends OUT extends it whatever it answers. -/
theorem settle_outExtends {s t : State} {r : Res State} (hr : ∀ u, r = .ok u → OutExtends s u) (h : settle s r = .next t) :
    OutExtends s t := by
  obtain hok | ⟨e, -, rfl⟩ := settle_eq_next.1 h
  · exact hr t hok
  · exact outExtends_of_eq rfl

theorem leaveLz_outExtends {l : List Byte} {s t : State} (h : leaveLz l s = .ok t) : OutExtends s t := by
  obtain ⟨-, rfl⟩ | ⟨-, rfl⟩ := leaveLz_eq_ok.1 h <;> exact outExtends_of_eq rfl

theorem lzCtrlStep_outExtends {f : Byte} {s t : State} (h : lzCtrlStep f s = .ok t) : OutExtends s t := by
  obtain ⟨ip, -, rfl⟩ := lzCtrlStep_eq_ok.1 h
  exact outExtends_of_eq rfl

theorem lzLitStep_outExtends {b : Byte} {s t : State} (h : lzLitStep b s = .ok t) : OutExtends s t := by
  obtain ⟨ip, out, f, n, -, hout, -, -, rfl⟩ := lzLitStep_eq_ok.1 h
  intro out' hout'
  obtain rfl : out = out' := Option.some.inj (hout.symm.trans hout')
  exact ⟨[b], rfl⟩

theorem lzRefStep_outExtends {bytes d n : Nat} {s t : State} (h : lzRefStep bytes d n s = .ok t) : OutExtends s t := by
  obtain ⟨ip, out, size, m, f, k, -, hout, -, -, -, -, -, rfl⟩ := lzRefStep_eq_ok.1 h
  intro out' hout'
  obtain rfl : out = out' := Option.some.inj (hout.symm.trans hout')
  obtain ⟨more, hmore⟩ := copyBytes_eq_append m (out.length - (d + 1)) out
  exact ⟨more, congrArg some hmore⟩

/-- A token that was fetched extends OUT. -/
theorem exec_token_outExtends {p : Params} {lit : Bool} {inp : List Byte} {ip : Nat} {i : Instr} {s t : State}
    (hi : fetchToken p lit inp ip = .ok i) (h : exec i s = .next t) : OutExtends s t := by
  obtain ⟨b, rfl⟩ | ⟨n, d, rfl, -⟩ | ⟨d, m, rfl⟩ := token_of_fetchToken hi
  · exact settle_outExtends (fun _ => lzLitStep_outExtends) h
  · exact settle_outExtends (fun _ => lzRefStep_outExtends) h
  · exact settle_outExtends (fun _ => lzRefStep_outExtends) h

/-- A control byte and the token behind it: an error of the token is entered from the state before both (notes/assumptions/12.md). -/
theorem execTwo_token_outExtends {p : Params} {lit : Bool} {inp : List Byte} {ip : Nat} {c : Byte} {i : Instr} {s t : State}
    (hi : fetchToken p lit inp ip = .ok i) (h : execTwo (.lzCtrl c) i s = .next t) : OutExtends s t := by
  obtain ⟨u, v, hu, hv, rfl⟩ := execTwo_eq_next.1 h
  split
  · exact outExtends_of_eq rfl
  · have hctrl : OutExtends s u := settle_outExtends (fun _ => lzCtrlStep_outExtends) hu
    exact hctrl.trans (exec_token_outExtends hi hv)

/-- Whatever an LZ.STEP finds to do extends OUT when it is done. -/
theorem perform_lz_outExtends {s t : State} {todo : Todo} (hf : fetchLz s = .ok todo) (h : perform todo s = .next t) : OutExtends s t := by
  obtain ⟨out, -, -, -, ⟨-, rfl⟩ | ⟨-, inp, ip, n, -, -, -, ⟨-, c, i, -, hi, rfl⟩ | ⟨-, f, i, -, hi, rfl⟩⟩⟩ := fetchLz_eq_ok.1 hf
  · exact settle_outExtends (fun _ => leaveLz_outExtends) h
  · exact execTwo_token_outExtends hi h
  · exact exec_token_outExtends hi h

/-- Settles O55: what the loop fetches extends OUT (`perform_lz_outExtends`), and an error that the fetch raises keeps it. -/
theorem outputOnlyGrows : Obligations.OutputOnlyGrows := by
  unfold Obligations.OutputOnlyGrows
  intro s t out hp hs hout h
  have hextends : OutExtends s t := by
    obtain ⟨todo, hfetch, hstep⟩ | ⟨e, -, hstep⟩ | ⟨f, -, hstep⟩ := step_cases s <;> rw [hstep] at h
    · exact perform_lz_outExtends ((fetch_loop hp hs).symm.trans hfetch) h
    · cases h
      exact outExtends_of_eq rfl
    · cases h
  exact hextends out hout

end Sys2Proof.Machine

namespace Sys2Proof.Machine

/-! ## The decoder undoes the encoder

The bit identities a token's and an entry's bytes rest on, the code tables, and then one case per kind of instruction. -/

theorem distanceOf_encoded (n : BitVec 4) (d : BitVec 12) : distanceOf (n ++ d.extractLsb' 8 4) (d.extractLsb' 0 8) = d := by
  rw [distanceOf, BitVec.extractLsb'_append_eq_right]
  exact (BitVec.extractLsb'_append_extractLsb'_eq_extractLsb' rfl).trans BitVec.extractLsb'_eq_self

theorem half_of_its_bytes (e : Half) : e.extractLsb' 8 8 ++ e.extractLsb' 0 8 = e :=
  (BitVec.extractLsb'_append_extractLsb'_eq_extractLsb' rfl).trans BitVec.extractLsb'_eq_self

theorem highNibble_eq_zero_iff (b : Byte) : b.extractLsb' 4 4 = 0 ↔ b.toNat / 16 = 0 := by
  have hb := b.isLt
  rw [← BitVec.toNat_inj, BitVec.extractLsb'_toNat, Nat.shiftRight_eq_div_pow, Nat.mod_eq_of_lt (by omega)]
  rfl

theorem decodeToken_short {b1 : Byte} (h : b1.extractLsb' 4 4 ≠ 0) (b2 : Byte) (rest : List Byte) :
    decodeToken false (b1 :: b2 :: rest) = some (.lzRefs (b1.extractLsb' 4 4) (distanceOf b1 b2), rest) := by
  simp only [decodeToken, if_neg h]

theorem decodeToken_long {b1 : Byte} (h : b1.extractLsb' 4 4 = 0) (b2 b3 : Byte) (rest : List Byte) :
    decodeToken false (b1 :: b2 :: b3 :: rest) = some (.lzRefl (distanceOf b1 b2) b3, rest) := by
  simp only [decodeToken, if_pos h]

theorem wellFormed_lzRefs_iff {n : BitVec 4} {d : BitVec 12} : (Instr.lzRefs n d).wellFormed = true ↔ n ≠ 0 := by simp [Instr.wellFormed]

theorem lookupFirst_of_codeFor {β : Type} [DecidableEq β] {table : List (Byte × β)} {v : β} {c : Byte} (h : codeFor table v = some c) :
    lookupFirst table c = some v := by
  obtain ⟨e, he, rfl⟩ := Option.map_eq_some_iff.1 h
  simpa using List.find?_some he

theorem decode_of_encodeFmt {p : Params} {f : PixFmt} {c : Ctx} {bs : List Byte} (h : encodeFmt p f = some (c, bs)) (rest : List Byte) :
    decode p c (bs ++ rest) = some (fmtInstr f, rest) := by
  obtain ⟨code, hcode, hcb⟩ := Option.map_eq_some_iff.1 h
  cases hcb
  simp [decode, fmtOfCode, lookupFirst_of_codeFor hcode]

theorem decode_of_encodePal {p : Params} {f : PalFmt} {e : Half} {c : Ctx} {bs : List Byte} (h : encodePal p f e = some (c, bs))
    (rest : List Byte) : decode p c (bs ++ rest) = some (palInstr e f, rest) := by
  obtain ⟨code, hcode, hcb⟩ := Option.map_eq_some_iff.1 h
  cases hcb
  simp [decode, palOfCode, lookupFirst_of_codeFor hcode, half_of_its_bytes]

theorem decode_of_encode {p : Params} {i : Instr} {c : Ctx} {bs : List Byte} (hwf : i.wellFormed = true) (h : encode p i = some (c, bs))
    (rest : List Byte) : decode p c (bs ++ rest) = some (i, rest) := by
  cases i with
  | lzRefs n d =>
    cases h
    have hnibble : (n ++ d.extractLsb' 8 4).extractLsb' 4 4 = n := BitVec.extractLsb'_append_eq_left
    have hne : (n ++ d.extractLsb' 8 4).extractLsb' 4 4 ≠ 0 := by rw [hnibble]; exact wellFormed_lzRefs_iff.1 hwf
    refine (decodeToken_short hne _ rest).trans ?_
    rw [hnibble, distanceOf_encoded]
  | lzRefl d m =>
    cases h
    refine (decodeToken_long BitVec.extractLsb'_append_eq_left _ m rest).trans ?_
    rw [distanceOf_encoded]
  | fmtI4 | fmtI8 | fmtIA4 | fmtIA8 | fmtRGB565 | fmtRGB5A3 | fmtRGBA32 | fmtC4 | fmtC8 | fmtC14X2 | fmtCMPR => exact decode_of_encodeFmt h rest
  | palfmtIA8 e | palfmtRGB565 e | palfmtRGB5A3 e => exact decode_of_encodePal h rest
  | lzCtrl b | lzLit b | opDecompress inp hb | opParseHeader inp hb | opDecode inp hb | lzDetect | hdrParse | palDecode | asmStart | asmBlock =>
    cases h
    rfl

theorem encodeFmt_default_isSome (f : PixFmt) : (encodeFmt Params.default f).isSome = true := by cases f <;> decide

theorem encodePal_default_isSome (f : PalFmt) (e : Half) : (encodePal Params.default f e).isSome = true := by
  have hcode : (codeFor Params.default.palCode f).isSome = true := by cases f <;> decide
  rwa [encodePal, Option.isSome_map]

theorem encode_default_isSome (i : Instr) : (encode Params.default i).isSome = true := by
  cases i with
  | fmtI4 | fmtI8 | fmtIA4 | fmtIA8 | fmtRGB565 | fmtRGB5A3 | fmtRGBA32 | fmtC4 | fmtC8 | fmtC14X2 | fmtCMPR => exact encodeFmt_default_isSome _
  | palfmtIA8 e | palfmtRGB565 e | palfmtRGB5A3 e => exact encodePal_default_isSome _ e
  | lzCtrl b | lzLit b | lzRefs n d | lzRefl d m | opDecompress inp hb | opParseHeader inp hb | opDecode inp hb | lzDetect | hdrParse | palDecode
  | asmStart | asmBlock => rfl

/-- Settles O1, instruction by instruction (`decode_of_encode`); the default tables give every format a code. -/
theorem decodeOfEncodeIsIdentity : Obligations.DecodeOfEncodeIsIdentity := by
  unfold Obligations.DecodeOfEncodeIsIdentity
  exact ⟨fun _ _ _ _ rest hwf h => decode_of_encode hwf h rest, encode_default_isSome⟩

end Sys2Proof.Machine

namespace Sys2Proof.Machine

/-! ## The header layout

A field of the header is taken from the part of the bytes it lies in, and a part written by `beBytes` is read back by `beNat`. -/

theorem beNat_cons (b : Byte) (xs : List Byte) : beNat (b :: xs) = b.toNat * 256 ^ xs.length + beNat xs := by
  induction xs using List.reverseRecOn with
  | nil => simp [beNat]
  | append_singleton xs c ih =>
    rw [← List.cons_append, beNat_append, beNat_append, ih, List.length_append, List.length_singleton, pow_succ]
    ring

theorem beNat_beBytes (n v : Nat) : beNat (beBytes n v) = v % 256 ^ n := by
  induction n with
  | zero => simp [beBytes, beNat, Nat.mod_one]
  | succ n ih =>
    rw [beBytes, beNat_cons, ih, beBytes_length, BitVec.toNat_ofNat, Nat.mod_pow_succ (b := 256)]
    ring

theorem headerField_append_left {xs ys : List Byte} {off n : Nat} (h : off + n ≤ xs.length) :
    headerField (xs ++ ys) off n = headerField xs off n := by
  rw [headerField, headerField, List.drop_append_of_le_length (by omega), List.take_append_of_le_length (by simp; omega)]

theorem headerField_append_right {xs ys : List Byte} {off n : Nat} (h : xs.length ≤ off) :
    headerField (xs ++ ys) off n = headerField ys (off - xs.length) n := by
  rw [headerField, headerField, List.drop_append, List.drop_eq_nil_of_le h, List.nil_append]

@[simp] theorem headerField_cons_succ (b : Byte) (xs : List Byte) (off n : Nat) :
    headerField (b :: xs) (off + 1) n = headerField xs off n := rfl

@[simp] theorem headerField_cons_zero (b : Byte) (xs : List Byte) : headerField (b :: xs) 0 1 = b.toNat := by
  simp [headerField, beNat]

@[simp] theorem headerField_beBytes {w n : Nat} (hw : w = 8 * n) (x : BitVec w) : headerField (beBytes n x.toNat) 0 n = x.toNat := by
  have hpow : 2 ^ w = 256 ^ n := by rw [hw, pow_mul]; rfl
  rw [headerField, List.drop_zero, List.take_of_length_le (by simp), beNat_beBytes, Nat.mod_eq_of_lt (hpow ▸ x.isLt)]

@[simp] theorem encodeHeader_length (d : Dsc) : (encodeHeader d).length = 0x20 := by simp [encodeHeader]

theorem decodeHeader_encodeHeader {p : Params} {d : Dsc} (hf : fmtOfCode p d.formatRaw = some d.format)
    (hp : palOfCode p d.palFmtRaw = some d.palFmt) : decodeHeader p (encodeHeader d) = .ok d := by
  simp [decodeHeader, encodeHeader, headerField_append_left, headerField_append_right, hf, hp]

/-- Settles O4: the layout is 32 bytes long, and every field is read where it was written. -/
theorem headerDecodeOfEncodeIsIdentity : Obligations.HeaderDecodeOfEncodeIsIdentity := by
  unfold Obligations.HeaderDecodeOfEncodeIsIdentity
  exact fun _ d hf hp => ⟨encodeHeader_length d, decodeHeader_encodeHeader hf hp⟩

end Sys2Proof.Machine

namespace Sys2Proof.Machine

/-! ## Tokens and back-references

The operands of a back-reference determine the instruction: its two forms have separate length ranges, and within a form distance and length are
the operand fields themselves, the length shifted by a constant. -/

theorem refOperands_lzRefs_iff {n : BitVec 4} {d : BitVec 12} {dist len : Nat} :
    (Instr.lzRefs n d).wellFormed = true ∧ refOperands (.lzRefs n d) = some (dist, len) ↔
      dist ≤ 4095 ∧ 3 ≤ len ∧ len ≤ 17 ∧ n = BitVec.ofNat 4 (len - 2) ∧ d = BitVec.ofNat 12 dist := by
  rw [wellFormed_lzRefs_iff]
  simp only [refOperands, shortLength, Option.some.injEq, Prod.mk.injEq]
  bv_omega

theorem refOperands_lzRefl_iff {d : BitVec 12} {m : Byte} {dist len : Nat} :
    refOperands (.lzRefl d m) = some (dist, len) ↔
      dist ≤ 4095 ∧ 18 ≤ len ∧ len ≤ 273 ∧ d = BitVec.ofNat 12 dist ∧ m = BitVec.ofNat 8 (len - 18) := by
  simp only [refOperands, longLength, Option.some.injEq, Prod.mk.injEq]
  bv_omega

/-- The back-reference of a distance and a length, in the form that the length selects (30_encoding R130). -/
def refInstr (dist len : Nat) : Instr :=
  if len ≤ 17 then .lzRefs (BitVec.ofNat 4 (len - 2)) (BitVec.ofNat 12 dist) else .lzRefl (BitVec.ofNat 12 dist) (BitVec.ofNat 8 (len - 18))

theorem refInstr_short {len : Nat} (h : len ≤ 17) (dist : Nat) :
    refInstr dist len = .lzRefs (BitVec.ofNat 4 (len - 2)) (BitVec.ofNat 12 dist) := if_pos h

theorem refInstr_long {len : Nat} (h : 18 ≤ len) (dist : Nat) :
    refInstr dist len = .lzRefl (BitVec.ofNat 12 dist) (BitVec.ofNat 8 (len - 18)) := if_neg (by omega)

theorem refOperands_eq_some_iff {i : Instr} {dist len : Nat} : i.wellFormed = true ∧ refOperands i = some (dist, len) ↔
    dist ≤ 4095 ∧ 3 ≤ len ∧ len ≤ 273 ∧ i = refInstr dist len := by
  constructor
  · rintro ⟨hwf, hi⟩
    cases i with
    | lzRefs n d =>
      obtain ⟨hd, hlo, hhi, rfl, rfl⟩ := refOperands_lzRefs_iff.1 ⟨hwf, hi⟩
      exact ⟨hd, hlo, by omega, (refInstr_short hhi dist).symm⟩
    | lzRefl d m =>
      obtain ⟨hd, hlo, hhi, rfl, rfl⟩ := refOperands_lzRefl_iff.1 hi
      exact ⟨hd, by omega, hhi, (refInstr_long hlo dist).symm⟩
    | _ => cases hi
  · rintro ⟨hd, hlo, hhi, rfl⟩
    by_cases hlen : len ≤ 17
    · rw [refInstr_short hlen]
      exact refOperands_lzRefs_iff.2 ⟨hd, hlo, hlen, rfl, rfl⟩
    · rw [refInstr_long (by omega)]
      exact ⟨rfl, refOperands_lzRefl_iff.2 ⟨hd, by omega, hhi, rfl, rfl⟩⟩

/-- Settles O2: the token lengths by the decoder's three forms, the rest by `refOperands_eq_some_iff`, which names the one instruction. -/
theorem backReferenceEncodingIsUnique : Obligations.BackReferenceEncodingIsUnique := by
  unfold Obligations.BackReferenceEncodingIsUnique
  refine ⟨fun b rest => ⟨.lzLit b, rfl⟩, fun b1 b2 rest h => ?_, fun b1 b2 b3 rest h => ?_, fun d n hd hlo hhi => ?_,
    fun d n hn i hwf hi => ?_, fun d n hn i hwf hi => ?_, fun d n hn i hwf hi => ?_⟩
  · exact ⟨_, decodeToken_short (mt (highNibble_eq_zero_iff b1).1 h) b2 rest⟩
  · exact ⟨_, decodeToken_long ((highNibble_eq_zero_iff b1).2 h) b2 b3 rest⟩
  · refine ⟨refInstr d n, refOperands_eq_some_iff.2 ⟨hd, hlo, hhi, rfl⟩, fun i hi => ?_⟩
    obtain ⟨-, -, -, hi⟩ := refOperands_eq_some_iff.1 hi
    exact hi
  · obtain ⟨-, -, -, rfl⟩ := refOperands_eq_some_iff.1 ⟨hwf, hi⟩
    exact ⟨_, _, refInstr_short hn d⟩
  · obtain ⟨-, -, -, rfl⟩ := refOperands_eq_some_iff.1 ⟨hwf, hi⟩
    exact ⟨_, _, refInstr_long hn d⟩
  · obtain ⟨-, hlo, -, -⟩ := refOperands_eq_some_iff.1 ⟨hwf, hi⟩
    omega

end Sys2Proof.Machine

namespace Sys2Proof.Machine

/-! ## Header bytes that carry no field

`decodeHeader` depends on the bytes of its fields alone, and HDR.PARSE on WB through `decodeHeader` and WB's length alone. -/

theorem headerField_congr {h h' : List Byte} {off n : Nat} (hsame : ∀ k, off ≤ k → k < off + n → h'[k]? = h[k]?) :
    headerField h' off n = headerField h off n := by
  have hbytes : (h'.drop off).take n = (h.drop off).take n := by
    refine List.ext_getElem? fun k => ?_
    rw [List.getElem?_take, List.getElem?_take, List.getElem?_drop, List.getElem?_drop]
    split
    · exact hsame _ (by omega) (by omega)
    · rfl
  rw [headerField, headerField, hbytes]

theorem decodeHeader_congr (p : Params) {h h' : List Byte}
    (hsame : ∀ k, k < 0x10 ∨ (0x14 ≤ k ∧ k < 0x19) ∨ 0x1A ≤ k → h'[k]? = h[k]?) : decodeHeader p h' = decodeHeader p h := by
  have hfield : ∀ off n, off + n ≤ 0x10 ∨ (0x14 ≤ off ∧ off + n ≤ 0x19) ∨ 0x1A ≤ off → headerField h' off n = headerField h off n :=
    fun off n hoff => headerField_congr fun k hlo hhi => hsame k (by omega)
  simp [decodeHeader, hfield]

/-- The state with another work buffer. -/
def setWb (wb : List Byte) (s : State) : State := { s with wb := some wb }

theorem settle_map {f : State → State} {s : State} (hf : ∀ e, raiseError e (f s) = f (raiseError e s)) (r : Res State) :
    settle (f s) (r.map f) = mapNext f (settle s r) := by
  rcases r with (e | x) | t
  · exact congrArg _ (hf e)
  · rfl
  · rfl

theorem leaveHdr_setWb (d : Dsc) (wb : List Byte) (s : State) : leaveHdr d (setWb wb s) = (leaveHdr d s).map (setWb wb) := by
  unfold leaveHdr
  rcases hop : s.op with _ | (_ | _ | _) <;> simp [setWb, hop] <;> rfl

theorem hdrParseStep_setWb {s : State} {wb wb' : List Byte} {hb : Word} (hwb : s.wb = some wb) (hhb : s.hb = some hb)
    (hlen : wb'.length = wb.length)
    (hdec : decodeHeader s.params ((wb'.drop hb.toNat).take 0x20) = decodeHeader s.params ((wb.drop hb.toNat).take 0x20)) :
    hdrParseStep (setWb wb' s) = (hdrParseStep s).map (setWb wb') := by
  have hwb' : (setWb wb' s).wb = some wb' := rfl
  have hhb' : (setWb wb' s).hb = some hb := hhb
  have hparams : (setWb wb' s).params = s.params := rfl
  unfold hdrParseStep
  rw [hwb', hhb', hwb, hhb, hparams]
  simp only [need_some, res_ok_bind, hlen, hdec]
  split
  · rfl
  · cases decodeHeader s.params ((wb.drop hb.toNat).take 0x20) with
    | badFormat raw => rfl
    | badPalFormat raw => rfl
    | ok d => exact leaveHdr_setWb d wb' (loadDsc d s)

/-- Settles O33: HDR.PARSE answers from the same decoded header, and nothing it writes depends on WB. -/
theorem unusedHeaderBytesAreIgnored : Obligations.UnusedHeaderBytesAreIgnored := by
  unfold Obligations.UnusedHeaderBytesAreIgnored
  intro s wb wb' hb hwb hhb hlen hsame
  have hdec : decodeHeader s.params ((wb'.drop hb.toNat).take 0x20) = decodeHeader s.params ((wb.drop hb.toNat).take 0x20) := by
    refine decodeHeader_congr _ fun k hk => ?_
    rw [List.getElem?_take, List.getElem?_take, List.getElem?_drop, List.getElem?_drop,
      hsame (hb.toNat + k) (by omega) (by omega) (by omega) (by omega) (by omega)]
  have hstep : hdrParseStep (setWb wb' s) = (hdrParseStep s).map (setWb wb') := hdrParseStep_setWb hwb hhb hlen hdec
  calc exec .hdrParse (setWb wb' s) = settle (setWb wb' s) ((hdrParseStep s).map (setWb wb')) := congrArg (settle _) hstep
    _ = mapNext (setWb wb') (exec .hdrParse s) := settle_map (fun _ => rfl) _

end Sys2Proof.Machine

namespace Sys2Proof.Machine

/-! ## Written-out words and illegal codes -/

theorem lookupFirst_eq_none_iff {α β : Type} [DecidableEq α] {table : List (α × β)} {a : α} :
    lookupFirst table a = none ↔ ∀ e ∈ table, e.1 ≠ a := by
  induction table with
  | nil => simp [lookupFirst]
  | cons e rest ih =>
    rw [lookupFirst, List.forall_mem_cons]
    split <;> simp [*]

theorem fmtOfCode_default_eq_none_iff (c : Byte) : fmtOfCode Params.default c = none ↔
    c = 0x07 ∨ c = 0x0B ∨ c = 0x0C ∨ c = 0x0D ∨ 0x0F ≤ c.toNat := by
  rw [fmtOfCode, lookupFirst_eq_none_iff]
  simp only [Params.default, List.forall_mem_cons, List.not_mem_nil, false_imp_iff, implies_true, and_true, ne_eq]
  bv_omega

theorem palOfCode_default_eq_none_iff (c : Byte) : palOfCode Params.default c = none ↔ 0x03 ≤ c.toNat := by
  rw [palOfCode, lookupFirst_eq_none_iff]
  simp only [Params.default, List.forall_mem_cons, List.not_mem_nil, false_imp_iff, implies_true, and_true, ne_eq]
  bv_omega

/-- Settles O5: the decoder refuses a code exactly where its table has none. -/
theorem illegalCodesAreRefused : Obligations.IllegalCodesAreRefused := by
  unfold Obligations.IllegalCodesAreRefused
  refine ⟨fun c => ?_, fun c hi lo => ?_⟩
  · rw [← fmtOfCode_default_eq_none_iff, decode, Option.map_eq_none_iff]
  · rw [← palOfCode_default_eq_none_iff, decode, Option.map_eq_none_iff]

/-- Settles O3: the decoder, run on each word. -/
theorem writtenOutWordsDecode : Obligations.WrittenOutWordsDecode := by
  unfold Obligations.WrittenOutWordsDecode
  and_intros <;> decide

end Sys2Proof.Machine

namespace Sys2Proof.Machine

/-! ## HDR.PARSE reads the header where it stands in WB

A field of the 32 header bytes is the read of WB at the field's offset behind HB, and the layout keeps every bit of it. The two codes then decide
between the descriptor and the two code errors. -/

theorem headerField_lt (h : List Byte) (off n : Nat) : headerField h off n < 256 ^ n :=
  (beNat_lt _).trans_le (Nat.pow_le_pow_right (by decide) (List.length_take_le _ _))

/-- A register as wide as its field holds the whole field. -/
theorem toNat_ofNat_headerField {w n : Nat} (hw : w = 8 * n) (h : List Byte) (off : Nat) :
    (BitVec.ofNat w (headerField h off n)).toNat = headerField h off n := by
  have hpow : 2 ^ w = 256 ^ n := by rw [hw, pow_mul]; rfl
  rw [BitVec.toNat_ofNat, Nat.mod_eq_of_lt (hpow ▸ headerField_lt h off n)]

/-- The 32 header bytes of `buf` at `base` (40_header R151). -/
def headerWindow (buf : List Byte) (base : Nat) : List Byte := (buf.drop base).take 0x20

/-- A read inside the header is the header's field (30_encoding R120). -/
theorem memRead_headerWindow {buf : List Byte} {base off n : Nat} (hin : base + 0x20 ≤ buf.length) (hoff : off + n ≤ 0x20) :
    memRead buf (base + off) n = some (headerField (headerWindow buf base) off n) := by
  rw [memRead, if_pos (by omega), headerField, headerWindow, List.drop_take, List.drop_drop, List.take_take, Nat.min_eq_left (by omega)]

/-- A code byte that is read inside the header is the header's field, and it is a byte. -/
theorem headerField_of_memRead {buf : List Byte} {base off raw : Nat} (hin : base + 0x20 ≤ buf.length) (hoff : off + 1 ≤ 0x20)
    (h : memRead buf (base + off) 1 = some raw) : headerField (headerWindow buf base) off 1 = raw ∧ (BitVec.ofNat 8 raw).toNat = raw := by
  obtain rfl := Option.some.inj ((memRead_headerWindow hin hoff).symm.trans h)
  exact ⟨rfl, toNat_ofNat_headerField rfl _ _⟩

/-- The fields of `d` other than the two codes stand in `buf`, each at its offset behind `base` (30_encoding R120). -/
def FieldsAt (buf : List Byte) (base : Nat) (d : Dsc) : Prop :=
  memRead buf (base + 0x01) 1 = some d.alpha.toNat ∧ memRead buf (base + 0x02) 2 = some d.width.toNat ∧
  memRead buf (base + 0x04) 2 = some d.height.toNat ∧ memRead buf (base + 0x06) 1 = some d.wrapS.toNat ∧
  memRead buf (base + 0x07) 1 = some d.wrapT.toNat ∧ memRead buf (base + 0x08) 1 = some d.palEn.toNat ∧
  memRead buf (base + 0x0A) 2 = some d.colorCount.toNat ∧ memRead buf (base + 0x0C) 4 = some d.palOff.toNat ∧
  memRead buf (base + 0x14) 1 = some d.minFilter.toNat ∧ memRead buf (base + 0x15) 1 = some d.magFilter.toNat ∧
  memRead buf (base + 0x16) 1 = some d.minLod.toNat ∧ memRead buf (base + 0x17) 1 = some d.maxLod.toNat ∧
  memRead buf (base + 0x18) 1 = some d.mipCount.toNat ∧ memRead buf (base + 0x1A) 2 = some d.lodBias.toNat ∧
  memRead buf (base + 0x1C) 4 = some d.imgOff.toNat

/-- The two code bytes of a header that fits, as reads of the buffer it stands in (30_encoding R121, R122). -/
structure CodesAt (buf : List Byte) (base rawFmt rawPal : Nat) : Prop where
  fits : base + 0x20 ≤ buf.length
  fmt : memRead buf base 1 = some rawFmt
  pal : memRead buf (base + 0x09) 1 = some rawPal

section
variable {p : Params} {buf : List Byte} {base rawFmt rawPal : Nat}

theorem CodesAt.fmt_field (h : CodesAt buf base rawFmt rawPal) :
    headerField (headerWindow buf base) 0x00 1 = rawFmt ∧ (BitVec.ofNat 8 rawFmt).toNat = rawFmt :=
  headerField_of_memRead h.fits (by decide) h.fmt

theorem CodesAt.pal_field (h : CodesAt buf base rawFmt rawPal) :
    headerField (headerWindow buf base) 0x09 1 = rawPal ∧ (BitVec.ofNat 8 rawPal).toNat = rawPal :=
  headerField_of_memRead h.fits (by decide) h.pal

/-- A format code that maps to nothing, whatever the palette-format code (40_header R157). -/
theorem decodeHeader_badFormat (h : CodesAt buf base rawFmt rawPal) (hf : fmtOfCode p (BitVec.ofNat 8 rawFmt) = none) :
    decodeHeader p (headerWindow buf base) = .badFormat (BitVec.ofNat 8 rawFmt) := by
  simp only [decodeHeader, h.fmt_field.1, hf]

/-- A palette-format code that maps to nothing, behind a format code that maps to a format (40_header R157). -/
theorem decodeHeader_badPalFormat (h : CodesAt buf base rawFmt rawPal) {f : PixFmt} (hf : fmtOfCode p (BitVec.ofNat 8 rawFmt) = some f)
    (hpal : palOfCode p (BitVec.ofNat 8 rawPal) = none) :
    decodeHeader p (headerWindow buf base) = .badPalFormat (BitVec.ofNat 8 rawPal) := by
  simp only [decodeHeader, h.fmt_field.1, h.pal_field.1, hf, hpal]

/-- Two codes that map to formats: the descriptor holds them and every field from its offset (40_header R151). -/
theorem decodeHeader_ok (h : CodesAt buf base rawFmt rawPal) {f : PixFmt} {pf : PalFmt}
    (hf : fmtOfCode p (BitVec.ofNat 8 rawFmt) = some f) (hpal : palOfCode p (BitVec.ofNat 8 rawPal) = some pf) :
    ∃ d, decodeHeader p (headerWindow buf base) = .ok d ∧ d.formatRaw = BitVec.ofNat 8 rawFmt ∧ d.format = f ∧
      d.palFmtRaw = BitVec.ofNat 8 rawPal ∧ d.palFmt = pf ∧ FieldsAt buf base d := by
  have hread : ∀ {w off n : Nat}, w = 8 * n → off + n ≤ 0x20 →
      memRead buf (base + off) n = some (BitVec.ofNat w (headerField (headerWindow buf base) off n)).toNat :=
    fun hw hoff => (memRead_headerWindow h.fits hoff).trans (congrArg some (toNat_ofNat_headerField hw _ _).symm)
  simp only [decodeHeader, h.fmt_field.1, h.pal_field.1, hf, hpal]
  refine ⟨_, rfl, rfl, rfl, rfl, rfl, ?_⟩
  unfold FieldsAt
  and_intros <;> exact hread rfl (by decide)

end

/-- Settles O31: the header decodes to the descriptor of its fields (`decodeHeader_ok`), which HDR.PARSE loads and hands on. -/
theorem headerParseLoadsEveryField : Obligations.HeaderParseLoadsEveryField := by
  unfold Obligations.HeaderParseLoadsEveryField
  intro s wb hb rawFmt rawPal f pf hwb hhb hin hfmt hpal hf hpf
  have hcodes : CodesAt wb hb.toNat rawFmt rawPal := ⟨hin, hfmt, hpal⟩
  obtain ⟨d, hdec, hfmtRaw, hformat, hpalRaw, hpalFmt, hfields⟩ := decodeHeader_ok hcodes hf hpf
  have hexec : ∀ t, leaveHdr d (loadDsc d s) = .ok t → exec .hdrParse s = .next t := fun t hleave =>
    settle_eq_next.2 (.inl (hdrParseStep_eq_ok.2 ⟨wb, hb, d, hwb, hhb, hin, hdec, hleave⟩))
  refine ⟨d, ⟨?_, hformat, ?_, hpalFmt, hfields⟩, fun hop => hexec _ ?_, fun hop => hexec _ ?_⟩
  · rw [hfmtRaw, hcodes.fmt_field.2]
  · rw [hpalRaw, hcodes.pal_field.2]
  · exact leaveHdr_eq_ok.2 (.inl ⟨hop, rfl⟩)
  · exact leaveHdr_eq_ok.2 (.inr ⟨hop, rfl⟩)

/-- Settles O32: the three errors of `hdrParseStep_eq_raised`, each entered from the state HDR.PARSE began in. -/
theorem headerErrorsComeInOrder : Obligations.HeaderErrorsComeInOrder := by
  unfold Obligations.HeaderErrorsComeInOrder
  intro s wb hb hwb hhb
  have hexec : ∀ e, hdrParseStep s = .error (.raised e) → exec .hdrParse s = .next (raiseError e s) := fun e he =>
    settle_eq_next.2 (.inr ⟨e, he, rfl⟩)
  refine ⟨fun hshort => ?_, fun rawFmt rawPal hin hfmt hpal => ?_⟩
  · exact hexec _ (hdrParseStep_eq_raised.2 ⟨wb, hb, hwb, hhb, .inl ⟨hshort, rfl⟩⟩)
  · have hcodes : CodesAt wb hb.toNat rawFmt rawPal := ⟨hin, hfmt, hpal⟩
    refine ⟨fun hf => ?_, fun f hf hpf => ?_⟩
    · refine hexec ⟨.unknownFormat, .header, rawFmt⟩ (hdrParseStep_eq_raised.2 ⟨wb, hb, hwb, hhb, .inr (.inl ⟨hin, _,
        decodeHeader_badFormat hcodes hf, ?_⟩)⟩)
      rw [hcodes.fmt_field.2]
    · refine hexec ⟨.unknownPaletteFormat, .header, rawPal⟩ (hdrParseStep_eq_raised.2 ⟨wb, hb, hwb, hhb, .inr (.inr ⟨hin, _,
        decodeHeader_badPalFormat hcodes hf hpf, ?_⟩)⟩)
      rw [hcodes.pal_field.2]

end Sys2Proof.Machine

namespace Sys2Proof.Machine

/-! ## The descriptor outside HDR.PARSE

Each unit but HDR.PARSE keeps the descriptor in its result, and an error keeps it whatever the unit. -/

/-- `t` has the descriptor of `s`, its validity and its geometry (10_state R50, R52, R53). -/
def KeepsDsc (s t : State) : Prop := t.dsc = s.dsc ∧ t.dscValid = s.dscValid ∧ t.geom = s.geom

/-- An error keeps the descriptor (notes/assumptions/17.md), so a unit whose result keeps it keeps it whatever it answers. -/
theorem settle_keepsDsc {s t : State} {r : Res State} (hr : ∀ u, r = .ok u → KeepsDsc s u) (h : settle s r = .next t) : KeepsDsc s t := by
  obtain hok | ⟨e, -, rfl⟩ := settle_eq_next.1 h
  · exact hr t hok
  · exact ⟨rfl, rfl, rfl⟩

theorem leaveLz_keepsDsc {l : List Byte} {s t : State} (h : leaveLz l s = .ok t) : KeepsDsc s t := by
  obtain ⟨-, rfl⟩ | ⟨-, rfl⟩ := leaveLz_eq_ok.1 h <;> exact ⟨rfl, rfl, rfl⟩

theorem lzDetectStep_keepsDsc {s t : State} (h : lzDetectStep s = .ok t) : KeepsDsc s t := by
  obtain ⟨inp, -, ⟨-, size, -, rfl⟩ | ⟨-, hleave⟩⟩ := lzDetectStep_eq_ok.1 h
  · exact ⟨rfl, rfl, rfl⟩
  · exact leaveLz_keepsDsc hleave

theorem lzCtrlStep_keepsDsc {f : Byte} {s t : State} (h : lzCtrlStep f s = .ok t) : KeepsDsc s t := by
  obtain ⟨ip, -, rfl⟩ := lzCtrlStep_eq_ok.1 h
  exact ⟨rfl, rfl, rfl⟩

theorem lzLitStep_keepsDsc {b : Byte} {s t : State} (h : lzLitStep b s = .ok t) : KeepsDsc s t := by
  obtain ⟨ip, out, f, n, -, -, -, -, rfl⟩ := lzLitStep_eq_ok.1 h
  exact ⟨rfl, rfl, rfl⟩

theorem lzRefStep_keepsDsc {bytes d n : Nat} {s t : State} (h : lzRefStep bytes d n s = .ok t) : KeepsDsc s t := by
  obtain ⟨ip, out, size, m, f, k, -, -, -, -, -, -, -, rfl⟩ := lzRefStep_eq_ok.1 h
  exact ⟨rfl, rfl, rfl⟩

theorem runFormat_keepsDsc {f : PixFmt} {s t : State} (h : runFormat f s = .ok t) : KeepsDsc s t := by
  obtain ⟨blk, pal, -, -, -, -, rfl⟩ := runFormat_eq_ok.1 h
  exact ⟨rfl, rfl, rfl⟩

theorem pushEntry_keepsDsc {c : Rgba} {s t : State} (h : pushEntry c s = .ok t) : KeepsDsc s t := by
  obtain ⟨pal, -, rfl⟩ := pushEntry_eq_ok.1 h
  exact ⟨rfl, rfl, rfl⟩

theorem palDecodeStep_keepsDsc {s t : State} (h : palDecodeStep s = .ok t) : KeepsDsc s t := by
  obtain ⟨d, pal, -, rfl, -⟩ := palDecodeStep_eq_ok.1 h
  exact ⟨rfl, rfl, rfl⟩

/-- Finishing and going on both keep the descriptor. -/
theorem asmNext_keepsDsc (finished : Bool) (d : Dsc) (pb : PixBuf) (s : State) : KeepsDsc s (asmNext finished d pb s) := by
  cases finished <;> exact ⟨rfl, rfl, rfl⟩

theorem asmStartStep_keepsDsc {s t : State} (h : asmStartStep s = .ok t) : KeepsDsc s t := by
  obtain ⟨d, -, rfl⟩ := asmStartStep_eq_ok.1 h
  exact asmNext_keepsDsc _ _ _ _

theorem asmBlockStep_keepsDsc {s t : State} (h : asmBlockStep s = .ok t) : KeepsDsc s t := by
  obtain ⟨d, g, wb, hb, k, bx, oy, pb, pal, -, -, -, -, -, -, -, -, rfl⟩ := asmBlockStep_eq_ok.1 h
  exact asmNext_keepsDsc _ _ _ _

/-- Settles O54: every instruction left is the settling of a unit that keeps the descriptor. -/
theorem onlyHeaderParseWritesTheDescriptor : Obligations.OnlyHeaderParseWritesTheDescriptor := by
  unfold Obligations.OnlyHeaderParseWritesTheDescriptor
  intro i s t hhdr hop h
  cases i with
  | lzCtrl f => exact settle_keepsDsc (fun _ => lzCtrlStep_keepsDsc) h
  | lzLit b => exact settle_keepsDsc (fun _ => lzLitStep_keepsDsc) h
  | lzRefs n d => exact settle_keepsDsc (fun _ => lzRefStep_keepsDsc) h
  | lzRefl d m => exact settle_keepsDsc (fun _ => lzRefStep_keepsDsc) h
  | fmtI4 | fmtI8 | fmtIA4 | fmtIA8 | fmtRGB565 | fmtRGB5A3 | fmtRGBA32 | fmtC4 | fmtC8 | fmtC14X2 | fmtCMPR =>
    exact settle_keepsDsc (fun _ => runFormat_keepsDsc) h
  | palfmtIA8 e | palfmtRGB565 e | palfmtRGB5A3 e => exact settle_keepsDsc (fun _ => pushEntry_keepsDsc) h
  | opDecompress inp hb => exact absurd rfl (hop inp hb).1
  | opParseHeader inp hb => exact absurd rfl (hop inp hb).2.1
  | opDecode inp hb => exact absurd rfl (hop inp hb).2.2
  | lzDetect => exact settle_keepsDsc (fun _ => lzDetectStep_keepsDsc) h
  | hdrParse => exact absurd rfl hhdr
  | palDecode => exact settle_keepsDsc (fun _ => palDecodeStep_keepsDsc) h
  | asmStart => exact settle_keepsDsc (fun _ => asmStartStep_keepsDsc) h
  | asmBlock => exact settle_keepsDsc (fun _ => asmBlockStep_keepsDsc) h

end Sys2Proof.Machine

namespace Sys2Proof.Machine

/-! ## The palette-format instructions

Each appends its entry's colour, so a sequence of them appends the colours in order. -/

theorem exec_palInstr {s : State} {pal : List Rgba} (h : s.pal = some pal) (f : PalFmt) (e : Half) :
    exec (palInstr e f) s = .next { s with pal := some (pal ++ [palConvert f e]) } := by
  cases f <;> exact settle_eq_next.2 (.inl (pushEntry_eq_ok.2 ⟨pal, h, rfl⟩))

theorem execAll_cons_of_next {i : Instr} {s t : State} (h : exec i s = .next t) (rest : List Instr) :
    execAll (i :: rest) s = execAll rest t := by
  simp only [execAll, h]

/-- Settles O26: `exec_palInstr` at each of the three formats. -/
theorem paletteFormatsConvertOneEntry : Obligations.PaletteFormatsConvertOneEntry := by
  unfold Obligations.PaletteFormatsConvertOneEntry
  intro s pal e h
  exact ⟨exec_palInstr h .ia8 e, exec_palInstr h .rgb565 e, exec_palInstr h .rgb5a3 e⟩

/-- Settles O30, by induction on the entries. -/
theorem paletteEntriesKeepTheirOrder : Obligations.PaletteEntriesKeepTheirOrder := by
  unfold Obligations.PaletteEntriesKeepTheirOrder
  intro f es
  induction es with
  | nil =>
    intro s pal h
    simp [execAll, ← h]
  | cons e es ih =>
    intro s pal h
    rw [List.map_cons, execAll_cons_of_next (exec_palInstr h f e), ih _ _ rfl]
    simp

end Sys2Proof.Machine

namespace Sys2Proof.Machine

/-! ## The 16-bit colour conversions -/

/-- A bit field as a number: the value without the bits below it (42_block_decoder R227, R229, R231). -/
theorem extractLsb'_eq_ofNat_div {w : Nat} (v : BitVec w) (start len : Nat) :
    v.extractLsb' start len = BitVec.ofNat len (v.toNat / 2 ^ start) := by
  rw [BitVec.extractLsb', Nat.shiftRight_eq_div_pow]

/-- RGB5A3's selecting bit as a number (42_block_decoder R231). -/
theorem half_topBit_iff {v : Half} : v.getLsbD 15 = true ↔ 32768 ≤ v.toNat := by
  rw [← BitVec.msb_eq_getLsbD_last v, BitVec.msb_eq_decide, decide_eq_true_iff]

/-- Settles O17: each field by `extractLsb'_eq_ofNat_div`, RGB5A3's branch by `half_topBit_iff`, the corner values by evaluation. -/
theorem pixelConversions : Obligations.PixelConversions := by
  unfold Obligations.PixelConversions
  refine ⟨fun v => ?_, fun v => ?_, fun v h => ?_, fun v h => ?_, by decide, by decide, by decide, by decide, by decide, by decide,
    by decide, by decide, by decide, by decide, by decide, fun e => ⟨rfl, rfl, rfl⟩⟩
  · simp [ia8Pixel, extractLsb'_eq_ofNat_div]
  · simp [rgb565Pixel, extractLsb'_eq_ofNat_div]
  · rw [rgb5a3Pixel, if_pos (half_topBit_iff.2 h)]
    simp [extractLsb'_eq_ofNat_div]
  · rw [rgb5a3Pixel, if_neg (mt half_topBit_iff.1 (Nat.not_le.2 h))]
    simp [extractLsb'_eq_ofNat_div]

end Sys2Proof.Machine

namespace Sys2Proof.Machine

/-! ## PAL.DECODE

Entry `i` of a palette region is the read of its two bytes, and PAL.DECODE answers what `palDecodeStep_eq_ok` and `palDecodeStep_eq_raised`
say. -/

theorem memRead_drop {buf : List Byte} {base n : Nat} (hn : 0 < n) (off : Nat) :
    memRead (buf.drop base) off n = memRead buf (base + off) n := by
  unfold memRead
  rw [List.drop_drop, List.length_drop]
  by_cases h : base + off + n ≤ buf.length
  · rw [if_pos (by omega), if_pos h]
  · rw [if_neg (by omega), if_neg h]

theorem paletteEntries_length {n : Nat} {bs : List Byte} (h : 2 * n ≤ bs.length) : (paletteEntries n bs).length = n := by
  induction n generalizing bs with
  | zero => rfl
  | succ n ih =>
    match bs, h with
    | hi :: lo :: rest, h =>
      simp only [List.length_cons] at h
      rw [paletteEntries, List.length_cons, ih (by omega)]

/-- Two bytes joined, the high byte first, are their big-endian value (20_memory R82). -/
theorem append_eq_ofNat_beNat (hi lo : Byte) : (hi ++ lo : Half) = BitVec.ofNat 16 (beNat [hi, lo]) := by
  have hlt : beNat [hi, lo] < 2 ^ (8 + 8) := by simpa using beNat_lt [hi, lo]
  apply BitVec.eq_of_toNat_eq
  rw [BitVec.toNat_append, ← Nat.shiftLeft_add_eq_or_of_lt lo.isLt, Nat.shiftLeft_eq, BitVec.toNat_ofNat, Nat.mod_eq_of_lt hlt]
  simp [beNat]

/-- Entry `i` of a region is the big-endian value at byte `2 * i` (41_palette R181). -/
theorem paletteEntries_getElem? {n i : Nat} (h : i < n) (bs : List Byte) :
    (paletteEntries n bs)[i]? = (memRead bs (2 * i) 2).map (BitVec.ofNat 16) := by
  induction n generalizing i bs with
  | zero => omega
  | succ n ih =>
    match bs with
    | [] => simp [paletteEntries, memRead]
    | [b] => simp [paletteEntries, memRead]
    | hi :: lo :: rest =>
      cases i with
      | zero => simp [paletteEntries, memRead, append_eq_ofNat_beNat]
      | succ i =>
        rw [paletteEntries, List.getElem?_cons_succ, ih (by omega), Nat.mul_succ, Nat.add_comm, ← memRead_drop (by decide)]
        rfl

/-- Settles O28: the palette is `paletteEntries` of the region, each entry converted; without entries it is empty. -/
theorem paletteDecodesEveryEntry : Obligations.PaletteDecodesEveryEntry := by
  unfold Obligations.PaletteDecodesEveryEntry
  intro s d hb hvalid hdsc hidx hhb
  have hd : readDsc s = .ok d := readDsc_eq_ok.2 ⟨hvalid, hdsc⟩
  have hempty : d.colorCount.toNat = 0 → exec .palDecode s = .next { s with pal := some [], phase := .asm, seq := .first } := fun hzero =>
    settle_eq_next.2 (.inl (palDecodeStep_eq_ok.2 ⟨d, [], hd, rfl, .inr (.inl ⟨hidx, hzero, Option.isSome_of_eq_some hhb, rfl⟩)⟩))
  refine ⟨hempty, fun wb hwb hin => ?_⟩
  by_cases hzero : d.colorCount.toNat = 0
  · exact ⟨[], hempty hzero, hzero.symm, by omega⟩
  · refine ⟨_, settle_eq_next.2 (.inl (palDecodeStep_eq_ok.2
      ⟨d, _, hd, rfl, .inr (.inr ⟨hidx, hzero, hb, wb, hhb, hwb, hin, rfl⟩)⟩)), ?_, fun i e hi hread => ?_⟩
    · rw [List.length_map, paletteEntries_length (by rw [List.length_drop]; omega)]
    · rw [List.getElem?_map, paletteEntries_getElem? hi, memRead_drop (by decide), hread]
      rfl

/-- Settles O27: the case of `palDecodeStep_eq_ok` for a format that is not indexed. -/
theorem paletteIsEmptyForDirectFormats : Obligations.PaletteIsEmptyForDirectFormats := by
  unfold Obligations.PaletteIsEmptyForDirectFormats
  intro s d hvalid hdsc hidx
  exact settle_eq_next.2 (.inl (palDecodeStep_eq_ok.2 ⟨d, [], readDsc_eq_ok.2 ⟨hvalid, hdsc⟩, rfl, .inl ⟨hidx, rfl⟩⟩))

/-- Settles O29: the error of `palDecodeStep_eq_raised`, entered from the state PAL.DECODE began in. -/
theorem paletteOutOfRange : Obligations.PaletteOutOfRange := by
  unfold Obligations.PaletteOutOfRange
  intro s d wb hb hvalid hdsc hidx hwb hhb hpos hshort
  exact settle_eq_next.2 (.inr ⟨_, palDecodeStep_eq_raised.2
    ⟨d, hb, wb, readDsc_eq_ok.2 ⟨hvalid, hdsc⟩, hidx, by omega, hhb, hwb, hshort, rfl⟩, rfl⟩)

end Sys2Proof.Machine

namespace Sys2Proof.Machine

/-! ## Channel expansions

Each expansion as a number, from which its laws follow by arithmetic. -/

theorem expand3_toNat (v : BitVec 3) : (expand3 v).toNat = v.toNat * 32 + v.toNat * 4 + v.toNat / 2 := by
  revert v
  decide

theorem expand4_toNat (v : BitVec 4) : (expand4 v).toNat = 17 * v.toNat := by
  revert v
  decide

theorem expand5_toNat (v : BitVec 5) : (expand5 v).toNat = v.toNat * 8 + v.toNat / 4 := by
  revert v
  decide

theorem expand6_toNat (v : BitVec 6) : (expand6 v).toNat = v.toNat * 4 + v.toNat / 16 := by
  revert v
  decide

/-- Settles O16: the numbers are `expand3_toNat` to `expand6_toNat`, and the laws of R204 are their arithmetic. -/
theorem channelExpansions : Obligations.ChannelExpansions := by
  unfold Obligations.ChannelExpansions
  refine ⟨?_, ?_, ?_, ?_⟩
  · refine ⟨fun v => ⟨expand3_toNat v, by rw [expand3_toNat]; omega⟩, rfl, rfl, fun u v h => ?_⟩
    rw [BitVec.lt_def] at h ⊢
    rw [expand3_toNat, expand3_toNat]
    omega
  · refine ⟨fun v => ⟨expand4_toNat v, by rw [expand4_toNat]; omega⟩, rfl, rfl, fun u v h => ?_⟩
    rw [BitVec.lt_def] at h ⊢
    rw [expand4_toNat, expand4_toNat]
    omega
  · refine ⟨fun v => ⟨expand5_toNat v, by rw [expand5_toNat]; omega⟩, rfl, rfl, fun u v h => ?_⟩
    rw [BitVec.lt_def] at h ⊢
    rw [expand5_toNat, expand5_toNat]
    omega
  · refine ⟨fun v => ⟨expand6_toNat v, by rw [expand6_toNat]; omega⟩, rfl, rfl, fun u v h => ?_⟩
    rw [BitVec.lt_def] at h ⊢
    rw [expand6_toNat, expand6_toNat]
    omega

end Sys2Proof.Machine

namespace Sys2Proof.Machine

/-! ## The samples of a block window

What a byte, a nibble, a 16-bit sample and a CMPR index word of the window are, from the bytes read there (30_encoding R134 to R143). -/

theorem highNibble_toNat (b : Byte) : (b.extractLsb' 4 4).toNat = b.toNat / 16 := by
  rw [extractLsb'_eq_ofNat_div, BitVec.toNat_ofNat]
  omega

theorem lowNibble_toNat (b : Byte) : (b.extractLsb' 0 4).toNat = b.toNat % 16 := by
  rw [extractLsb'_eq_ofNat_div, BitVec.toNat_ofNat, pow_zero, Nat.div_one]

theorem blkByte_of_getElem? {blk : List Byte} {k : Nat} {b : Byte} (h : blk[k]? = some b) : blkByte blk k = b := by
  rw [blkByte, List.getD_eq_getElem?_getD, h, Option.getD_some]

/-- Sample `2 * k` is the high nibble of byte `k` (R134). -/
theorem blkNibble_even {blk : List Byte} {k : Nat} {b : Byte} (h : blk[k]? = some b) : (blkNibble blk (2 * k)).toNat = b.toNat / 16 := by
  rw [blkNibble, if_pos (by omega), Nat.mul_div_cancel_left k (by decide), blkByte_of_getElem? h, highNibble_toNat]

/-- Sample `2 * k + 1` is the low nibble of byte `k` (R134). -/
theorem blkNibble_odd {blk : List Byte} {k : Nat} {b : Byte} (h : blk[k]? = some b) : (blkNibble blk (2 * k + 1)).toNat = b.toNat % 16 := by
  have hk : (2 * k + 1) / 2 = k := by omega
  rw [blkNibble, if_neg (by omega), hk, blkByte_of_getElem? h, lowNibble_toNat]

/-- A 16-bit sample has its high byte first (R137 to R139). -/
theorem blkHalf_of_getElem? {blk : List Byte} {j : Nat} {hi lo : Byte} (hhi : blk[2 * j]? = some hi) (hlo : blk[2 * j + 1]? = some lo) :
    blkHalf blk j = BitVec.ofNat 16 (hi.toNat * 256 + lo.toNat) := by
  rw [blkHalf, blkByte_of_getElem? hhi, blkByte_of_getElem? hlo, append_eq_ofNat_beNat]
  simp [beNat]

/-- A read inside the window is the big-endian value of its bytes (20_memory R82). -/
theorem eq_beNat_of_memRead {blk : List Byte} {a n v : Nat} (h : memRead blk a n = some v) :
    v = beNat ((List.range n).map fun t => blkByte blk (a + t)) := by
  have hin : a + n ≤ blk.length := (memRead_isSome_iff blk a n).1 (Option.isSome_of_eq_some h)
  rw [memRead, if_pos hin, Option.some.injEq] at h
  rw [← h]
  congr 1
  apply List.ext_getElem
  · simp only [List.length_take, List.length_drop, List.length_map, List.length_range]
    omega
  · intro t ht _
    have hlt : a + t < blk.length := by
      simp only [List.length_take, List.length_drop] at ht
      omega
    simp [blkByte, hlt]

theorem blkHalf_of_memRead {blk : List Byte} {a j v : Nat} (ha : a = 2 * j) (h : memRead blk a 2 = some v) :
    blkHalf blk j = BitVec.ofNat 16 v := by
  rw [eq_beNat_of_memRead h, ha, blkHalf, append_eq_ofNat_beNat]
  rfl

theorem append_byte_toNat {w : Nat} (x : BitVec w) (b : Byte) : (x ++ b).toNat = x.toNat * 256 + b.toNat := by
  rw [BitVec.toNat_append, ← Nat.shiftLeft_add_eq_or_of_lt b.isLt, Nat.shiftLeft_eq]

theorem cmprIndexWord_toNat {blk : List Byte} {q v : Nat} (h : memRead blk (8 * q + 4) 4 = some v) : (cmprIndexWord blk q).toNat = v := by
  rw [eq_beNat_of_memRead h, cmprIndexWord]
  simp only [append_byte_toNat]
  simp [beNat, List.range_succ, Nat.add_assoc]

/-- Index `i` of an index word is its `i`-th 2-bit digit from the top (R141). -/
theorem cmprIndex_eq_digit {i v : Nat} {x : Word} (hi : i < 16) (hx : x.toNat = v) :
    x.extractLsb' (30 - 2 * i) 2 = BitVec.ofNat 2 (v / 4 ^ (15 - i)) := by
  have hexp : 30 - 2 * i = 2 * (15 - i) := by omega
  have hpow : 2 ^ (30 - 2 * i) = 4 ^ (15 - i) := by rw [hexp, pow_mul, Nat.pow_two]
  rw [extractLsb'_eq_ofNat_div, hx, hpow]

end Sys2Proof.Machine

namespace Sys2Proof.Machine

/-! ## The block routines

Every format instruction completes with `blockDecode` of the window; a routine's result at a position is its pixel rule there. -/

theorem exec_directFormat (f : PixFmt) (hdirect : isIndexed f = false) {s : State} {blk : List Byte} (hblk : s.blk = some blk)
    (hlen : blockBytes f ≤ blk.length) : exec (fmtInstr f) s = .next { s with rslt := some (blockDecode s.params f blk []) } := by
  have hrun := runFormat_eq_ok.2 ⟨blk, [], hblk, hlen, fun h => absurd h (by simp [hdirect]), fun _ => rfl, rfl⟩
  cases f <;> exact settle_eq_next.2 (.inl hrun)

theorem exec_indexedFormat (f : PixFmt) (hindexed : isIndexed f = true) {s : State} {blk : List Byte} {pal : List Rgba}
    (hblk : s.blk = some blk) (hlen : blockBytes f ≤ blk.length) (hpal : s.pal = some pal) :
    exec (fmtInstr f) s = .next { s with rslt := some (blockDecode s.params f blk pal) } := by
  have hrun := runFormat_eq_ok.2 ⟨blk, pal, hblk, hlen, fun _ => hpal, fun h => absurd h (by simp [hindexed]), rfl⟩
  cases f <;> exact settle_eq_next.2 (.inl hrun)

theorem expand4_eq_ofNat {v : BitVec 4} {n : Nat} (h : v.toNat = n) : expand4 v = BitVec.ofNat 8 (n * 17) := by
  apply BitVec.eq_of_toNat_eq
  rw [expand4_toNat, BitVec.toNat_ofNat, Nat.mod_eq_of_lt (by omega)]
  omega

/-- Settles O19: each result is the grey pixel of its sample, and `expand4` takes a nibble to 17 times its number. -/
theorem intensityFormatsDecode : Obligations.IntensityFormatsDecode := by
  unfold Obligations.IntensityFormatsDecode
  intro s blk hblk hlen
  refine ⟨⟨_, exec_directFormat .i4 rfl hblk hlen, blockDecode_length .., fun k b hk hb => ?_⟩,
    ⟨_, exec_directFormat .i8 rfl hblk hlen, blockDecode_length .., fun j b hj hb => ?_⟩,
    ⟨_, exec_directFormat .ia4 rfl hblk hlen, blockDecode_length .., fun j b hj hb => ?_⟩⟩
  · have heven : 2 * k < 64 := by omega
    have hodd : 2 * k + 1 < 64 := by omega
    simp [blockDecode, decodeI4, grey, heven, hodd, expand4_eq_ofNat (blkNibble_even hb), expand4_eq_ofNat (blkNibble_odd hb)]
  · simp [blockDecode, decodeI8, grey, hj, blkByte_of_getElem? hb]
  · simp [blockDecode, decodeIA4, grey, hj, blkByte_of_getElem? hb, expand4_eq_ofNat (highNibble_toNat b),
      expand4_eq_ofNat (lowNibble_toNat b)]

/-- Settles O20: each result is the format's conversion of a sample, which is `blkHalf_of_getElem?`. -/
theorem sixteenBitFormatsDecode : Obligations.SixteenBitFormatsDecode := by
  unfold Obligations.SixteenBitFormatsDecode
  intro s blk hblk hlen i conv hformat
  obtain ⟨f, rfl, hdirect, hbytes, hdecode⟩ : ∃ f, i = fmtInstr f ∧ isIndexed f = false ∧ blockBytes f = 32 ∧
      ∀ p, blockDecode p f blk [] = (List.range 16).map fun j => some (conv (blkHalf blk j)) := by
    obtain ⟨rfl, rfl⟩ | ⟨rfl, rfl⟩ | ⟨rfl, rfl⟩ := hformat
    · exact ⟨.ia8, rfl, rfl, rfl, fun _ => rfl⟩
    · exact ⟨.rgb565, rfl, rfl, rfl, fun _ => rfl⟩
    · exact ⟨.rgb5a3, rfl, rfl, rfl, fun _ => rfl⟩
  refine ⟨_, exec_directFormat f hdirect hblk (hbytes ▸ hlen), by simp [hdecode], fun j hi lo hj hhi hlo => ?_⟩
  simp [hdecode, hj, blkHalf_of_getElem? hhi hlo]

/-- Settles O21: pixel `i` takes its channels from the `i`-th byte pair of each half of the window. -/
theorem rgba32Decodes : Obligations.Rgba32Decodes := by
  unfold Obligations.Rgba32Decodes
  intro s blk hblk hlen
  refine ⟨_, exec_directFormat .rgba32 rfl hblk hlen, blockDecode_length .., fun i a r g b hi ha hr hg hb => ?_⟩
  simp [blockDecode, decodeRGBA32, hi, blkByte_of_getElem? ha, blkByte_of_getElem? hr, blkByte_of_getElem? hg, blkByte_of_getElem? hb]

/-- `PalLookup` is the entry at an index below PAL_LEN, and absent from there on (R246, R262). -/
theorem palLookup_eq_dite (pal : List Rgba) (k : Nat) : palLookup pal k = if h : k < pal.length then some pal[k] else none :=
  getElem?_def pal k

/-- Settles O22: each result is `palLookup` of its sample's number. -/
theorem indexedFormatsLookUp : Obligations.IndexedFormatsLookUp := by
  unfold Obligations.IndexedFormatsLookUp
  intro s blk pal hblk hlen hpal
  simp only [← palLookup_eq_dite]
  refine ⟨⟨_, exec_indexedFormat .c4 rfl hblk hlen hpal, blockDecode_length .., fun k b hk hb => ?_⟩,
    ⟨_, exec_indexedFormat .c8 rfl hblk hlen hpal, blockDecode_length .., fun j b hj hb => ?_⟩,
    ⟨_, exec_indexedFormat .c14x2 rfl hblk hlen hpal, blockDecode_length .., fun j hi lo hj hhi hlo => ?_⟩⟩
  · have heven : 2 * k < 64 := by omega
    have hodd : 2 * k + 1 < 64 := by omega
    simp [blockDecode, decodeC4, heven, hodd, blkNibble_even hb, blkNibble_odd hb]
  · simp [blockDecode, decodeC8, hj, blkByte_of_getElem? hb]
  · simp [blockDecode, decodeC14X2, hj, blkHalf_of_getElem? hhi hlo]

/-- Settles O23: the position `(sx + i % 4, sy + i / 4)` belongs to sub-block `q` and is its pixel `i`, whose colours and index are those read. -/
theorem cmprDecodes : Obligations.CmprDecodes := by
  unfold Obligations.CmprDecodes
  intro s blk hblk hlen
  refine ⟨_, exec_directFormat .cmpr rfl hblk hlen, blockDecode_length .., fun q i sx sy c0 c1 idx hi hq hc0 hc1 hidx => ?_⟩
  have hcolours : cmprPixel s.params blk q i =
      cmprColour s.params (BitVec.ofNat 16 c0) (BitVec.ofNat 16 c1) (BitVec.ofNat 2 (idx / 4 ^ (15 - i))) := by
    rw [cmprPixel, blkHalf_of_memRead (by omega) hc0, blkHalf_of_memRead (by omega) hc1, cmprIndex_eq_digit hi (cmprIndexWord_toNat hidx)]
  generalize hj : (sy + i / 4) * 8 + (sx + i % 4) = j
  have hlt : j < 64 := by omega
  have hsub : j % 8 / 4 + 2 * (j / 8 / 4) = q := by omega
  have hpix : j % 8 % 4 + 4 * (j / 8 % 4) = i := by omega
  simp only [blockDecode, decodeCMPR, List.getElem?_map, List.getElem?_range hlt, Option.map_some, hsub, hpix, hcolours]

theorem cmprThird_default_toNat (a b : Byte) : (cmprThird Params.default a b).toNat = (2 * a.toNat + b.toNat) / 3 :=
  (BitVec.toNat_ofNat ..).trans (Nat.mod_eq_of_lt (by omega))

theorem cmprHalf_default_toNat (a b : Byte) : (cmprHalf Params.default a b).toNat = (a.toNat + b.toNat) / 2 :=
  (BitVec.toNat_ofNat ..).trans (Nat.mod_eq_of_lt (by omega))

/-- Settles O24: the branches of `cmprColour`, and the default blends, which a byte can hold. -/
theorem cmprColourRule : Obligations.CmprColourRule := by
  unfold Obligations.CmprColourRule
  intro p c0 c1
  refine ⟨rfl, rfl, fun h => ⟨?_, ?_⟩, fun h => ⟨?_, ?_⟩, rfl, rfl,
    fun a b => ⟨cmprThird_default_toNat a b, cmprHalf_default_toNat a b⟩⟩
  · simp [cmprColour, blendWith, h]
  · simp [cmprColour, blendWith, h]
  · simp [cmprColour, blendWith, h]
  · simp [cmprColour, transparent, h]

/-- Settles O25: the length is `blockDecode_length`, and a routine that is not indexed maps every position to a pixel. -/
theorem onlyIndexedFormatsGiveAbsent : Obligations.OnlyIndexedFormatsGiveAbsent := by
  unfold Obligations.OnlyIndexedFormatsGiveAbsent
  intro p f blk pal
  refine ⟨blockDecode_length p f blk pal, fun hdirect => ?_⟩
  cases f with
  | c4 => cases hdirect
  | c8 => cases hdirect
  | c14x2 => cases hdirect
  | i4 => simp [blockDecode, decodeI4, grey]
  | i8 => simp [blockDecode, decodeI8, grey]
  | ia4 => simp [blockDecode, decodeIA4, grey]
  | ia8 => simp [blockDecode, decodeIA8]
  | rgb565 => simp [blockDecode, decodeRGB565]
  | rgb5a3 => simp [blockDecode, decodeRGB5A3]
  | rgba32 => simp [blockDecode, decodeRGBA32]
  | cmpr => simp [blockDecode, decodeCMPR]

end Sys2Proof.Machine

namespace Sys2Proof.Machine

/-! ## Placing the results of one block

Result `i` of a block lies at the origin plus `(i % bw, i / bw)`, and no two results at one place. So a placed block shows each result that is a
colour and lies in the image, and every other cell reads as before. -/

/-- A cell that gets no colour reads as before. -/
theorem pixRead_placeOne_of_not {pb : PixBuf} (hwf : pixBufWf pb = true) {w h x y x' y' : Nat} {r : Option Rgba}
    (hmiss : ∀ c, r = some c → ¬(x = x' ∧ y = y')) : pixRead (placeOne w h x y r pb) x' y' = pixRead pb x' y' := by
  cases r with
  | none => rfl
  | some c =>
    simp only [placeOne]
    split
    · rw [pixRead_pixWrite _ _ _ _ _ hwf, if_neg fun hsame => hmiss c rfl ⟨hsame.1, hsame.2.1⟩]
    · rfl

/-- A colour inside the image is what its cell then holds. -/
theorem pixRead_placeOne_self {pb : PixBuf} (hwf : pixBufWf pb = true) {x y : Nat} (hx : x < pb.width) (hy : y < pb.height) (c : Rgba) :
    pixRead (placeOne pb.width pb.height x y (some c) pb) x y = some c := by
  simp only [placeOne]
  rw [if_pos ⟨hx, hy⟩, pixRead_pixWrite _ _ _ _ _ hwf, if_pos ⟨rfl, rfl, hx, hy⟩]

/-- A cell at which no result is a colour reads as before. -/
theorem pixRead_placeFrom_of_not {w h bx oy bw j x y : Nat} {rs : List (Option Rgba)} {pb : PixBuf} (hwf : pixBufWf pb = true)
    (hmiss : ∀ i c, rs[i]? = some (some c) → ¬(bx + (j + i) % bw = x ∧ oy + (j + i) / bw = y)) :
    pixRead (placeFrom w h bx oy bw j rs pb) x y = pixRead pb x y := by
  induction rs generalizing j pb with
  | nil => rfl
  | cons r rest ih =>
    have hrest : ∀ i c, rest[i]? = some (some c) → ¬(bx + (j + 1 + i) % bw = x ∧ oy + (j + 1 + i) / bw = y) := fun i c hi => by
      rw [Nat.add_assoc, Nat.add_comm 1 i]
      exact hmiss (i + 1) c hi
    rw [placeFrom, ih (placeOne_wf _ _ _ _ _ hwf) hrest]
    exact pixRead_placeOne_of_not hwf fun c hr => hmiss 0 c (congrArg some hr)

/-- A result that is a colour and lies in the image is what its cell holds after all results from the `j`-th on are placed. -/
theorem pixRead_placeFrom_of_result {bx oy bw j i : Nat} {c : Rgba} {rs : List (Option Rgba)} {pb : PixBuf} (hwf : pixBufWf pb = true)
    (hx : bx + (j + i) % bw < pb.width) (hy : oy + (j + i) / bw < pb.height) (hi : rs[i]? = some (some c)) :
    pixRead (placeFrom pb.width pb.height bx oy bw j rs pb) (bx + (j + i) % bw) (oy + (j + i) / bw) = some c := by
  induction rs generalizing j i pb with
  | nil => simp at hi
  | cons r rest ih =>
    rw [placeFrom]
    cases i with
    | zero =>
      obtain rfl : r = some c := by simpa using hi
      rw [pixRead_placeFrom_of_not (placeOne_wf _ _ _ _ _ hwf)]
      · exact pixRead_placeOne_self hwf hx hy c
      · rintro i' c' - ⟨hcol, hrow⟩
        have hsame : j + 1 + i' = j + 0 := by
          rw [← Nat.div_add_mod (j + 1 + i') bw, ← Nat.div_add_mod (j + 0) bw, Nat.add_left_cancel hcol, Nat.add_left_cancel hrow]
        omega
    | succ i =>
      have hshift : j + (i + 1) = j + 1 + i := by omega
      rw [hshift] at hx hy ⊢
      have hplaced := ih (j := j + 1) (placeOne_wf pb.width pb.height (bx + j % bw) (oy + j / bw) r hwf)
        (by rwa [placeOne_width]) (by rwa [placeOne_height]) (by simpa using hi)
      rwa [placeOne_width, placeOne_height] at hplaced

/-- `pixRead_placeFrom_of_result` by block-local coordinates (43_assembler R276). -/
theorem pixRead_placeFrom_local {bx oy bw lx ly x y : Nat} {c : Rgba} {rs : List (Option Rgba)} {pb : PixBuf}
    (hwf : pixBufWf pb = true) (hx : x < pb.width) (hy : y < pb.height) (hlx : lx < bw) (hxe : x = bx + lx) (hye : y = oy + ly)
    (hc : rs[ly * bw + lx]? = some (some c)) : pixRead (placeFrom pb.width pb.height bx oy bw 0 rs pb) x y = some c := by
  subst hxe hye
  obtain ⟨hrow, hcol⟩ : (0 + (ly * bw + lx)) / bw = ly ∧ (0 + (ly * bw + lx)) % bw = lx :=
    (Nat.div_mod_unique (by omega)).2 ⟨by rw [Nat.mul_comm]; omega, hlx⟩
  have hplaced := pixRead_placeFrom_of_result (bx := bx) (oy := oy) (bw := bw) (j := 0) hwf (by rwa [hcol]) (by rwa [hrow]) hc
  rwa [hrow, hcol] at hplaced

/-- `pixRead_placeFrom_of_not` by block-local coordinates, for a block of `bw * bh` results (43_assembler R276). -/
theorem pixRead_placeFrom_of_not_local {w h bx oy bw bh x y : Nat} {rs : List (Option Rgba)} {pb : PixBuf} (hwf : pixBufWf pb = true)
    (hbw : 0 < bw) (hlen : rs.length = bw * bh)
    (hmiss : ¬∃ lx ly c, lx < bw ∧ ly < bh ∧ x = bx + lx ∧ y = oy + ly ∧ rs[ly * bw + lx]? = some (some c)) :
    pixRead (placeFrom w h bx oy bw 0 rs pb) x y = pixRead pb x y := by
  refine pixRead_placeFrom_of_not hwf fun i c hc hpos => hmiss ⟨i % bw, i / bw, c, Nat.mod_lt i hbw, ?_, ?_, ?_, ?_⟩
  · exact Nat.div_lt_of_lt_mul (hlen ▸ (List.getElem?_eq_some_iff.1 hc).1)
  · rw [← hpos.1, Nat.zero_add]
  · rw [← hpos.2, Nat.zero_add]
  · rwa [Nat.mul_comm, Nat.div_add_mod]

end Sys2Proof.Machine

namespace Sys2Proof.Machine

/-! ## What ASM.START and ASM.BLOCK answer -/

/-- A routine that is not indexed does not read the palette (42_block_decoder R210). -/
theorem blockDecode_congr_pal (p : Params) {f : PixFmt} (blk : List Byte) {pal pal' : List Rgba} (h : isIndexed f = true → pal = pal') :
    blockDecode p f blk pal = blockDecode p f blk pal' := by
  cases f with
  | c4 | c8 | c14x2 => rw [h rfl]
  | i4 | i8 | ia4 | ia8 | rgb565 | rgb5a3 | rgba32 | cmpr => rfl

/-- The results of block `k`: the format's routine on the block's window in WB (43_assembler R273, R274). -/
def blockResults (p : Params) (d : Dsc) (hb : Word) (wb : List Byte) (pal : List Rgba) (k : Nat) : List (Option Rgba) :=
  blockDecode p d.format ((wb.drop (blockAddress hb d.imgOff k (geometryOf d).bbytes)).take (geometryOf d).bbytes) pal

theorem blockResults_length (p : Params) (d : Dsc) (hb : Word) (wb : List Byte) (pal : List Rgba) (k : Nat) :
    (blockResults p d hb wb pal k).length = (geometryOf d).bw * (geometryOf d).bh :=
  blockDecode_length ..

/-- The unit answered its result when no error was entered. -/
theorem eq_ok_of_settle {s t : State} {r : Res State} (h : settle s r = .next t) (hphase : t.phase ≠ .error) : r = .ok t := by
  obtain hok | ⟨e, -, rfl⟩ := settle_eq_next.1 h
  · exact hok
  · exact absurd rfl hphase

/-- ASM.BLOCK on a block whose window lies in WB; without an indexed format the palette may be any. -/
theorem exec_asmBlock_of_window {s : State} {d : Dsc} {wb : List Byte} {hb : Word} {pal : List Rgba} {k bx oy : Nat} {pb : PixBuf}
    (hin : BlockInputs s d (geometryOf d) wb hb k) (hpal : isIndexed d.format = true → s.pal = some pal)
    (hbX : s.bX = some bx) (hbY : s.bY = some oy) (hpb : s.pb = some pb)
    (hwindow : blockAddress hb d.imgOff k (blockBytes d.format) + blockBytes d.format ≤ wb.length) :
    exec .asmBlock s = .next (afterBlock d (geometryOf d) k bx oy pb (blockResults s.params d hb wb pal k) s) := by
  have hread : isIndexed d.format = true → pal = if isIndexed d.format then pal else [] := fun hi => by rw [if_pos hi]
  rw [blockResults, blockDecode_congr_pal _ _ hread]
  refine settle_eq_next.2 (.inl (asmBlockStep_eq_ok.2 ⟨d, geometryOf d, wb, hb, k, bx, oy, pb, _, hin, hbX, hbY, hpb, hwindow,
    Nat.le_refl _, fun hi => ?_, fun hi => ?_, rfl⟩))
  · rw [if_pos hi, hpal hi]
  · rw [hi]
    rfl

/-- ASM.BLOCK at block `k` of the walk, when it enters no error: it has placed the block's results and moved the cursors on. -/
theorem afterBlock_of_exec {s t : State} {d : Dsc} {k : Nat} (hdsc : DscLoaded s d) (hwalk : WalkAt s d k)
    (h : exec .asmBlock s = .next t) (hphase : t.phase ≠ .error) :
    ∃ hb wb pal pb, s.hb = some hb ∧ s.wb = some wb ∧ (isIndexed d.format = true → s.pal = some pal) ∧ s.pb = some pb ∧
      t = afterBlock d (geometryOf d) k (k % (geometryOf d).nbx * (geometryOf d).bw) (k / (geometryOf d).nbx * (geometryOf d).bh) pb
        (blockResults s.params d hb wb pal k) s := by
  obtain ⟨d', g, wb, hb, k', bx, oy, pb, pal, ⟨hd, hg, hwb, hhb, hk⟩, hbX, hbY, hpb, -, -, hpal, -, rfl⟩ :=
    asmBlockStep_eq_ok.1 (eq_ok_of_settle h hphase)
  obtain ⟨hvalid, hdsc, hgeom⟩ := hdsc
  obtain ⟨hbK, -, hcol, hrow, -⟩ := hwalk
  obtain rfl := Option.some.inj (hdsc.symm.trans (readDsc_eq_ok.1 hd).2)
  obtain rfl := Option.some.inj (hgeom.symm.trans hg)
  obtain rfl := Option.some.inj (hbK.symm.trans hk)
  obtain rfl := Option.some.inj (hcol.symm.trans hbX)
  obtain rfl := Option.some.inj (hrow.symm.trans hbY)
  exact ⟨hb, wb, pal, pb, hhb, hwb, hpal, hpb, rfl⟩

@[simp] theorem asmNext_pb (finished : Bool) (d : Dsc) (pb : PixBuf) (s : State) : (asmNext finished d pb s).pb = s.pb := by
  cases finished <;> rfl

@[simp] theorem asmNext_bK (finished : Bool) (d : Dsc) (pb : PixBuf) (s : State) : (asmNext finished d pb s).bK = s.bK := by
  cases finished <;> rfl

/-- ASM.START with a descriptor (43_assembler R272). -/
theorem exec_asmStart {s : State} {d : Dsc} (hvalid : s.dscValid = true) (hdsc : s.dsc = some d) :
    exec .asmStart s = .next (asmNext (decide (d.width.toNat = 0 ∨ d.height.toNat = 0)) d (newPixBuf d.width.toNat d.height.toNat)
      { s with pb := some (newPixBuf d.width.toNat d.height.toNat), bX := some 0, bY := some 0, bK := some 0 }) :=
  settle_eq_next.2 (.inl (asmStartStep_eq_ok.2 ⟨d, readDsc_eq_ok.2 ⟨hvalid, hdsc⟩, rfl⟩))

/-- Every cell of a new buffer is transparent (43_assembler R272). -/
theorem pixRead_newPixBuf {w h x y : Nat} (hx : x < w) (hy : y < h) : pixRead (newPixBuf w h) x y = some transparent :=
  if_pos ⟨hx, hy⟩

/-- Settles O38: `afterBlock_of_walk` has the cursors before block `k + 1`, and finishes when all blocks are done. -/
theorem walkVisitsEveryBlockOnce : Obligations.WalkVisitsEveryBlockOnce := by
  unfold Obligations.WalkVisitsEveryBlockOnce
  intro s t d k hdsc hwalk _ h hphase
  obtain ⟨hb, wb, pal, pb, -, -, -, hpb, rfl⟩ := afterBlock_of_exec hdsc hwalk h hphase
  obtain ⟨-, hk, -, -, q, hq, hwidth, hheight⟩ := hwalk
  obtain rfl := Option.some.inj (hpb.symm.trans hq)
  rw [afterBlock_of_walk hk]
  refine ⟨asmNext_bK .., fun hnext => ?_, fun hlast => ?_⟩
  · rw [decide_eq_false (Nat.not_le.2 hnext)]
    exact ⟨rfl, rfl, hnext, rfl, rfl, _, rfl, (placeBlock_width ..).trans hwidth, (placeBlock_height ..).trans hheight⟩
  · rw [decide_eq_true hlast.ge]
    exact ⟨rfl, rfl, rfl⟩

/-- Settles O36: the cells are `pixRead_placeFrom_local` and `pixRead_placeFrom_of_not_local`, the ending is the one `asmNext` selects. -/
theorem assemblerPlacesOneBlock : Obligations.AssemblerPlacesOneBlock := by
  unfold Obligations.AssemblerPlacesOneBlock
  intro s d wb hb pal bk bx oy pb hvalid hdsc hgeom hwb hhb hpal hbK hbX hbY hpb hwf hwidth hheight hwindow
  have hexec := exec_asmBlock_of_window ⟨readDsc_eq_ok.2 ⟨hvalid, hdsc⟩, hgeom, hwb, hhb, hbK⟩ hpal hbX hbY hpb hwindow
  refine ⟨_, blockResults s.params d hb wb pal bk,
    placeFrom d.width.toNat d.height.toNat bx oy (geometryOf d).bw 0 (blockResults s.params d hb wb pal bk) pb,
    nextBX d.width.toNat (geometryOf d).bw bx, nextBY d.width.toNat (geometryOf d).bw (geometryOf d).bh bx oy,
    rfl, rfl, rfl, rfl, ⟨placeFrom_width .., placeFrom_height .., placeFrom_wf _ _ _ _ _ _ _ hwf⟩, ?_, ?_, ?_, ?_⟩
  · intro lx ly c hlx _ hx hy hc
    rw [← hwidth] at hx ⊢
    rw [← hheight] at hy ⊢
    exact pixRead_placeFrom_local hwf hx hy hlx rfl rfl hc
  · intro x y hmiss
    exact pixRead_placeFrom_of_not_local hwf (blockWidth_pos d.format) (blockResults_length ..) hmiss
  · intro hinside
    rw [hexec, afterBlock, decide_eq_false (Nat.not_le.2 hinside)]
    rfl
  · intro hfinished
    rw [hexec, afterBlock, decide_eq_true hfinished]
    rfl

/-- Settles O35: the new buffer, and the ending that `asmNext` selects. -/
theorem assemblerStartsTransparent : Obligations.AssemblerStartsTransparent := by
  unfold Obligations.AssemblerStartsTransparent
  intro s d hvalid hdsc
  refine ⟨newPixBuf d.width.toNat d.height.toNat, rfl, rfl, fun x y hx hy => pixRead_newPixBuf hx hy, fun hw hh => ?_, fun hempty => ?_⟩
  · rw [exec_asmStart hvalid hdsc, decide_eq_false (by omega)]
    rfl
  · rw [exec_asmStart hvalid hdsc, decide_eq_true hempty]
    rfl

/-- Settles O37: the error of `asmBlockStep_eq_raised`, entered from the state ASM.BLOCK began in. -/
theorem blockOutOfRange : Obligations.BlockOutOfRange := by
  unfold Obligations.BlockOutOfRange
  intro s d wb hb bk hvalid hdsc hgeom hwb hhb hbK hshort
  exact settle_eq_next.2 (.inr ⟨_, asmBlockStep_eq_raised.2
    ⟨d, geometryOf d, wb, hb, bk, ⟨readDsc_eq_ok.2 ⟨hvalid, hdsc⟩, hgeom, hwb, hhb, hbK⟩, hshort, rfl⟩, rfl⟩)

end Sys2Proof.Machine

namespace Sys2Proof.Machine

/-! ## The image in the pixel buffer

The cells of the image whose block is block `k` are those that block `k` places its results at. -/

/-- A column of the image lies in one of the NBX block columns (10_state R53). -/
theorem column_lt_nbx {d : Dsc} {x : Nat} (hx : x < d.width.toNat) : x / (geometryOf d).bw < (geometryOf d).nbx := by
  by_contra hout
  have hcovered : d.width.toNat ≤ x / (geometryOf d).bw * (geometryOf d).bw :=
    (ceilDiv_le_iff (blockWidth_pos d.format) _).1 (Nat.not_lt.1 hout)
  have := Nat.div_mul_le_self x (geometryOf d).bw
  omega

/-- The block that covers a cell is block `k` exactly when the cell's block column and row are those of block `k` (43_assembler R277, R280). -/
theorem blockIndex_eq_iff {d : Dsc} {x : Nat} (hx : x < d.width.toNat) (y k : Nat) :
    y / (geometryOf d).bh * (geometryOf d).nbx + x / (geometryOf d).bw = k ↔
      k / (geometryOf d).nbx = y / (geometryOf d).bh ∧ k % (geometryOf d).nbx = x / (geometryOf d).bw := by
  have hcol := column_lt_nbx hx
  rw [Nat.div_mod_unique (Nat.zero_lt_of_lt hcol), Nat.mul_comm, Nat.add_comm]
  exact (and_iff_left hcol).symm

/-- The image's pixel at a cell is the result there of the block that covers it, or transparent where that is absent (43_assembler R280). -/
theorem imagePixel_eq_getD {p : Params} {d : Dsc} {hb : Word} {wb : List Byte} {pal : List Rgba} {x y k : Nat}
    (hk : y / (geometryOf d).bh * (geometryOf d).nbx + x / (geometryOf d).bw = k) :
    imagePixel p d hb wb pal x y =
      ((blockResults p d hb wb pal k)[y % (geometryOf d).bh * (geometryOf d).bw + x % (geometryOf d).bw]?).join.getD transparent := by
  subst hk
  simp only [imagePixel, blockResults]
  split
  · next c hc => rw [hc]; rfl
  · next r hno =>
    rcases hr : (blockDecode _ _ _ _)[_]? with _ | _ | c
    · rfl
    · rfl
    · exact absurd hr (hno c)

/-- A result of block `k` at block-local coordinates lies at a cell of block `k`, and these are the cell's place in its block. -/
theorem cell_of_local {d : Dsc} {k lx ly x y : Nat} (hlx : lx < (geometryOf d).bw) (hly : ly < (geometryOf d).bh)
    (hx : x = k % (geometryOf d).nbx * (geometryOf d).bw + lx) (hy : y = k / (geometryOf d).nbx * (geometryOf d).bh + ly) :
    (k / (geometryOf d).nbx = y / (geometryOf d).bh ∧ k % (geometryOf d).nbx = x / (geometryOf d).bw) ∧
      y % (geometryOf d).bh = ly ∧ x % (geometryOf d).bw = lx := by
  obtain ⟨hcol, hlx'⟩ := (Nat.div_mod_unique (a := x) (Nat.zero_lt_of_lt hlx)).2 ⟨by rw [hx, Nat.mul_comm, Nat.add_comm], hlx⟩
  obtain ⟨hrow, hly'⟩ := (Nat.div_mod_unique (a := y) (Nat.zero_lt_of_lt hly)).2 ⟨by rw [hy, Nat.mul_comm, Nat.add_comm], hly⟩
  exact ⟨⟨hrow.symm, hcol.symm⟩, hly', hlx'⟩

section
variable {d : Dsc} {k x y : Nat} {rs : List (Option Rgba)} {pb : PixBuf}

/-- A colour of block `k` is what its cell holds after the block is placed. -/
theorem pixRead_placeBlock_of_result (hwf : pixBufWf pb = true) (hwidth : pb.width = d.width.toNat) (hheight : pb.height = d.height.toNat)
    (hx : x < d.width.toNat) (hy : y < d.height.toNat) (hk : y / (geometryOf d).bh * (geometryOf d).nbx + x / (geometryOf d).bw = k)
    {c : Rgba} (hc : rs[y % (geometryOf d).bh * (geometryOf d).bw + x % (geometryOf d).bw]? = some (some c)) :
    pixRead (placeBlock d k rs pb) x y = some c := by
  obtain ⟨hrow, hcol⟩ := (blockIndex_eq_iff hx y k).1 hk
  rw [← hwidth] at hx
  rw [← hheight] at hy
  rw [placeBlock, hrow, hcol, ← hwidth, ← hheight]
  exact pixRead_placeFrom_local hwf hx hy (Nat.mod_lt _ (blockWidth_pos d.format)) (Nat.div_add_mod' x _).symm (Nat.div_add_mod' y _).symm hc

/-- A cell of another block, or one whose result is absent, keeps its pixel when block `k` is placed. -/
theorem pixRead_placeBlock_of_not (hwf : pixBufWf pb = true) (hlen : rs.length = (geometryOf d).bw * (geometryOf d).bh)
    (hx : x < d.width.toNat)
    (hmiss : y / (geometryOf d).bh * (geometryOf d).nbx + x / (geometryOf d).bw = k →
      ∀ c, rs[y % (geometryOf d).bh * (geometryOf d).bw + x % (geometryOf d).bw]? ≠ some (some c)) :
    pixRead (placeBlock d k rs pb) x y = pixRead pb x y := by
  refine pixRead_placeFrom_of_not_local hwf (blockWidth_pos d.format) hlen ?_
  rintro ⟨lx, ly, c, hlx, hly, hxe, hye, hc⟩
  obtain ⟨hblock, rfl, rfl⟩ := cell_of_local hlx hly hxe hye
  exact hmiss ((blockIndex_eq_iff hx y k).2 hblock) c hc

end

/-- Placing block `k` takes the buffer from `k` blocks of the image to `k + 1` (43_assembler R277, R280). -/
theorem imageSoFar_succ {p : Params} {d : Dsc} {hb : Word} {wb : List Byte} {pal : List Rgba} {k : Nat} {pb : PixBuf}
    (hwf : pixBufWf pb = true) (hwidth : pb.width = d.width.toNat) (hheight : pb.height = d.height.toNat)
    (himage : ImageSoFar p d hb wb pal k pb) :
    ImageSoFar p d hb wb pal (k + 1) (placeBlock d k (blockResults p d hb wb pal k) pb) := by
  intro x y hx hy
  have hlen := blockResults_length p d hb wb pal k
  by_cases hk : y / (geometryOf d).bh * (geometryOf d).nbx + x / (geometryOf d).bw = k
  · rw [if_pos (by omega), imagePixel_eq_getD hk]
    rcases hres : ((blockResults p d hb wb pal k)[_]?).join with _ | c
    · have habsent : ∀ c, (blockResults p d hb wb pal k)[_]? ≠ some (some c) := fun c hc => nomatch hres ▸ Option.join_eq_some_iff.2 hc
      rw [pixRead_placeBlock_of_not hwf hlen hx fun _ => habsent, himage x y hx hy, if_neg (by omega)]
      rfl
    · exact pixRead_placeBlock_of_result hwf hwidth hheight hx hy hk (Option.join_eq_some_iff.1 hres)
  · have hbefore : y / (geometryOf d).bh * (geometryOf d).nbx + x / (geometryOf d).bw < k + 1 ↔
        y / (geometryOf d).bh * (geometryOf d).nbx + x / (geometryOf d).bw < k := by omega
    rw [pixRead_placeBlock_of_not hwf hlen hx fun h => absurd h hk, himage x y hx hy]
    simp only [hbefore]

/-- Settles O39: a new buffer is transparent, and `imageSoFar_succ` at each block of the walk. -/
theorem bufferIsTheImageSoFar : Obligations.BufferIsTheImageSoFar := by
  unfold Obligations.BufferIsTheImageSoFar
  refine ⟨fun s t d hb wb pal hvalid hdsc h => ?_, fun s t d k hb wb pal pb hdsc hwalk _ hhb hwb hpal hpb hwf himage h hphase => ?_⟩
  · obtain rfl := Host.Outcome.next.inj ((exec_asmStart hvalid hdsc).symm.trans h)
    refine ⟨newPixBuf _ _, asmNext_pb .., fun x y hx hy => ?_⟩
    rw [if_neg (Nat.not_lt_zero _), pixRead_newPixBuf hx hy]
  · obtain ⟨hb', wb', pal', pb', hhb', hwb', hpal', hpb', rfl⟩ := afterBlock_of_exec hdsc hwalk h hphase
    obtain ⟨-, -, -, -, q, hq, hwidth, hheight⟩ := hwalk
    obtain rfl := Option.some.inj (hhb.symm.trans hhb')
    obtain rfl := Option.some.inj (hwb.symm.trans hwb')
    obtain rfl := Option.some.inj (hpb.symm.trans hpb')
    obtain rfl := Option.some.inj (hpb.symm.trans hq)
    have hresults : blockResults s.params d hb wb pal' k = blockResults s.params d hb wb pal k :=
      blockDecode_congr_pal _ _ fun hi => Option.some.inj ((hpal' hi).symm.trans hpal)
    refine ⟨_, asmNext_pb .., ?_⟩
    rw [hresults]
    exact imageSoFar_succ hwf hwidth hheight himage

end Sys2Proof.Machine

namespace Sys2Proof.Machine

/-! ## The region size -/

/-- The running sum of the levels is the sum over them (43_assembler R285). -/
theorem levelSum_eq_sum (base levels : Nat) : levelSum base levels = ∑ k ∈ Finset.range levels, base / 4 ^ k := by
  induction levels with
  | zero => rfl
  | succ l ih => rw [levelSum, ih, Finset.sum_range_succ]

/-- Leaving HDR delivers the region size of the descriptor it leaves with, and keeps DSC (45_operations R347). -/
theorem leaveHdr_resRegion {d : Dsc} {s t : State} (h : leaveHdr d s = .ok t) :
    t.dsc = s.dsc ∧ t.resRegion = some (regionSize s.params d) := by
  obtain ⟨-, rfl⟩ | ⟨-, rfl⟩ := leaveHdr_eq_ok.1 h <;> exact ⟨rfl, rfl⟩

/-- Settles O34: the sum by `levelSum_eq_sum`, and HDR.PARSE delivers it for the descriptor it loads. -/
theorem regionSizeSumsTheLevels : Obligations.RegionSizeSumsTheLevels := by
  unfold Obligations.RegionSizeSumsTheLevels
  refine ⟨fun p d => levelSum_eq_sum .., fun c => rfl, fun s t d h hphase hd => ?_⟩
  obtain ⟨wb, hb, d', -, -, -, -, hleave⟩ := hdrParseStep_eq_ok.1 (eq_ok_of_settle h hphase)
  obtain ⟨hkept, hregion⟩ := leaveHdr_resRegion hleave
  obtain rfl : d = d' := Option.some.inj (hd.symm.trans hkept)
  exact hregion

end Sys2Proof.Machine

namespace Sys2Proof.Machine

/-! ## The copy loop

A copy appends `OUT[m + t] = OUT[src + t]` byte by byte; a longer copy is a shorter one and the rest of it. -/

/-- The output before the copy stays (44_lz_stream R321). -/
theorem copyBytes_getElem?_of_lt {n src k : Nat} {out : List Byte} (hk : k < out.length) : (copyBytes n src out)[k]? = out[k]? := by
  obtain ⟨more, hmore⟩ := copyBytes_eq_append n src out
  rw [hmore, List.getElem?_append_left hk]

/-- Byte `t` of a copy is byte `t` from its source on, the bytes of the same copy included (44_lz_stream R321). -/
theorem copyBytes_getElem?_add {n src t : Nat} {out : List Byte} (hsrc : src < out.length) (ht : t < n) :
    (copyBytes n src out)[out.length + t]? = (copyBytes n src out)[src + t]? := by
  induction n generalizing src out t with
  | zero => omega
  | succ n ih =>
    have hlen : (outPush out (out.getD src 0)).length = out.length + 1 := List.length_append
    rw [copyBytes]
    cases t with
    | zero =>
      rw [copyBytes_getElem?_of_lt (by omega), copyBytes_getElem?_of_lt (by omega)]
      simp [outPush, List.getElem?_append_left hsrc, hsrc]
    | succ t =>
      have hrest := ih (src := src + 1) (out := outPush out (out.getD src 0)) (t := t) (by omega) (by omega)
      rwa [hlen, Nat.add_assoc, Nat.add_assoc, Nat.add_comm 1 t] at hrest

/-- A copy from `p` bytes back repeats the last `p` bytes with period `p`. -/
theorem copyBytes_getElem?_periodic {n p t : Nat} {out : List Byte} (hp : 0 < p) (hle : p ≤ out.length) (ht : t < n) :
    (copyBytes n (out.length - p) out)[out.length + t]? = out[out.length - p + t % p]? := by
  induction t using Nat.strong_induction_on with
  | h t ih =>
    rw [copyBytes_getElem?_add (by omega) ht]
    by_cases hfirst : t < p
    · rw [copyBytes_getElem?_of_lt (by omega), Nat.mod_eq_of_lt hfirst]
    · have hback : out.length - p + t = out.length + (t - p) := by omega
      rw [hback, ih (t - p) (by omega) (by omega), ← Nat.mod_eq_sub_mod (Nat.le_of_not_lt hfirst)]

theorem copyBytes_add (k n src : Nat) (out : List Byte) : copyBytes (k + n) src out = copyBytes n (src + k) (copyBytes k src out) := by
  induction k generalizing src out with
  | zero => rw [Nat.zero_add]; rfl
  | succ k ih => rw [Nat.succ_add, copyBytes, ih, copyBytes, Nat.succ_add_eq_add_succ]

/-- A copy that stops early is the front of the whole copy (44_lz_stream R322, `Truncate`). -/
theorem copyBytes_take {k n src : Nat} {out : List Byte} (hk : k ≤ n) : (copyBytes n src out).take (out.length + k) = copyBytes k src out := by
  obtain ⟨j, rfl⟩ := Nat.exists_eq_add_of_le hk
  obtain ⟨more, hmore⟩ := copyBytes_eq_append j (src + k) (copyBytes k src out)
  rw [copyBytes_add, hmore, ← copyBytes_length k src out, List.take_left]

/-- Settles O9: the three facts about the copy loop, at the source of a back-reference. -/
theorem overlappingCopyIsPeriodic : Obligations.OverlappingCopyIsPeriodic := by
  unfold Obligations.OverlappingCopyIsPeriodic
  intro out d n hd
  exact ⟨copyBytes_length .., fun k => copyBytes_getElem?_of_lt, fun t => copyBytes_getElem?_add (by omega),
    fun t => copyBytes_getElem?_periodic (Nat.succ_pos d) hd⟩

end Sys2Proof.Machine

namespace Sys2Proof.Machine

/-! ## What the LZ instructions answer -/

theorem shiftFlags_eq_ofNat (f : Byte) : shiftFlags f = BitVec.ofNat 8 (2 * f.toNat) := by
  unfold shiftFlags
  bv_omega

/-- Settles O6: the result of `lzCtrlStep_eq_ok`. -/
theorem controlByteLoads : Obligations.ControlByteLoads := by
  unfold Obligations.ControlByteLoads
  intro f s ip hip
  exact settle_eq_next.2 (.inl (lzCtrlStep_eq_ok.2 ⟨ip, hip, rfl⟩))

/-- Settles O7: the result of `lzLitStep_eq_ok`. -/
theorem literalAppendsItsByte : Obligations.LiteralAppendsItsByte := by
  unfold Obligations.LiteralAppendsItsByte
  intro b f s ip n out hip hout hf hn
  rw [← shiftFlags_eq_ofNat]
  exact settle_eq_next.2 (.inl (lzLitStep_eq_ok.2 ⟨ip, out, f, n, hip, hout, hf, hn, rfl⟩))

/-- `i` is a back-reference of `bytes` token bytes, with distance field `d` and length `len`, in its short or its long form (30_encoding R128,
R129). -/
def IsBackReference (i : Instr) (bytes d len : Nat) : Prop :=
  (∃ a b, i = .lzRefs a b ∧ bytes = 2 ∧ d = b.toNat ∧ len = a.toNat + 2) ∨
  (∃ b c, i = .lzRefl b c ∧ bytes = 3 ∧ d = b.toNat ∧ len = c.toNat + 0x12)

/-- Both forms of a back-reference run the one unit (44_lz_stream R315, R316). -/
theorem IsBackReference.exec_eq {i : Instr} {bytes d len : Nat} (h : IsBackReference i bytes d len) (s : State) :
    exec i s = settle s (lzRefStep bytes d len s) := by
  obtain ⟨a, b, rfl, rfl, rfl, rfl⟩ | ⟨b, c, rfl, rfl, rfl, rfl⟩ := h <;> rfl

/-- An instruction with the operands of a back-reference is one. -/
theorem isBackReference_of_refOperands {i : Instr} {d len : Nat} (h : refOperands i = some (d, len)) :
    ∃ bytes, IsBackReference i bytes d len := by
  cases i with
  | lzRefs a b =>
    cases h
    exact ⟨2, .inl ⟨a, b, rfl, rfl, rfl, rfl⟩⟩
  | lzRefl b c =>
    cases h
    exact ⟨3, .inr ⟨b, c, rfl, rfl, rfl, rfl⟩⟩
  | _ => cases h

/-- A back-reference reaches into the output exactly when its source index is not negative (30_encoding R145). -/
theorem sourceIndex_nonneg_iff {m d : Nat} : 0 ≤ sourceIndex m d ↔ d + 1 ≤ m := by
  unfold sourceIndex
  omega

/-- A back-reference that reaches into the output copies as many bytes as the overrun rule lets it (44_lz_stream R315, R321, R323). -/
theorem exec_backReference_of_overrun {s : State} {i : Instr} {bytes d len ip n k : Nat} {f : Byte} {out : List Byte} {size : Word}
    (hi : IsBackReference i bytes d len) (hip : s.ip = some ip) (hout : s.out = some out) (hsize : s.dsize = some size)
    (hf : s.flags = some f) (hn : s.nbits = some n) (hd : d + 1 ≤ out.length)
    (hk : overrun s.params.lzOverrun out.length size.toNat len = .ok k) :
    exec i s = .next { s with
      ip := some (ip + bytes), out := some (copyBytes k (out.length - (d + 1)) out), src := some ((out.length - (d + 1) + k : Nat) : Int),
      cnt := some 0, flags := some (BitVec.ofNat 8 (2 * f.toNat)), nbits := some (n - 1) } := by
  rw [hi.exec_eq, ← shiftFlags_eq_ofNat]
  exact settle_eq_next.2 (.inl (lzRefStep_eq_ok.2
    ⟨ip, out, size, k, f, n, hip, hout, hsize, sourceIndex_nonneg_iff.2 hd, hk, hf, hn, rfl⟩))

/-- Settles O8: `exec_backReference_of_overrun` where the length fits, and O9 for the bytes copied. -/
theorem backReferenceCopies : Obligations.BackReferenceCopies := by
  unfold Obligations.BackReferenceCopies
  rintro s ip m f n out size hip hout hsize hf hn rfl i bytes d len hi hd hfits
  obtain ⟨hlen, hold, hsource, hperiod⟩ := overlappingCopyIsPeriodic out d len hd
  exact ⟨_, exec_backReference_of_overrun hi hip hout hsize hf hn hd (overrun_eq_ok.2 (.inl ⟨hfits, rfl⟩)), hlen, hold,
    fun t ht => ⟨hsource t ht, hperiod t ht⟩⟩

/-- Settles O10: the error of `lzRefStep_eq_raised` for a negative source index. -/
theorem backReferenceBeforeStartFails : Obligations.BackReferenceBeforeStartFails := by
  unfold Obligations.BackReferenceBeforeStartFails
  intro s ip out hip hout i d len hi hshort
  obtain ⟨bytes, hi⟩ := isBackReference_of_refOperands hi
  have hneg : sourceIndex out.length d < 0 := Int.not_le.1 (mt sourceIndex_nonneg_iff.1 (Nat.not_le.2 hshort))
  rw [hi.exec_eq]
  exact settle_eq_next.2 (.inr ⟨_, lzRefStep_eq_raised.2 ⟨ip, out, hip, hout, .inl ⟨hneg, rfl⟩⟩, rfl⟩)

/-- Settles O11: the overrun rule's three answers, the cut copy by `copyBytes_take`. -/
theorem overrunFollowsItsParameter : Obligations.OverrunFollowsItsParameter := by
  unfold Obligations.OverrunFollowsItsParameter
  rintro s ip m n f out size hip hout hsize hf hn rfl i bytes d len hi hd hover
  have hcopies {k : Nat} := exec_backReference_of_overrun (k := k) hi hip hout hsize hf hn hd
  refine ⟨fun hmode => ?_, fun hmode => ?_, fun hmode => ?_⟩
  · rw [IsBackReference.exec_eq hi]
    exact settle_eq_next.2 (.inr ⟨_, lzRefStep_eq_raised.2 ⟨ip, out, hip, hout, .inr ⟨sourceIndex_nonneg_iff.2 hd, size, hsize,
      overrun_eq_raised.2 ⟨hover, hmode, rfl⟩⟩⟩, rfl⟩)
  · rw [copyBytes_take (by omega)]
    exact hcopies (overrun_eq_ok.2 (.inr (.inl ⟨hover, hmode, rfl⟩)))
  · exact hcopies (overrun_eq_ok.2 (.inr (.inr ⟨hover, hmode, rfl⟩)))

end Sys2Proof.Machine

namespace Sys2Proof.Machine

/-! ## Detection and pass-through -/

theorem isTagged_iff {p : Params} {inp : List Byte} : isTagged p inp = true ↔ inp.take 4 = magicBytes p.lzMagic := decide_eq_true_iff

/-- Settles O12: with 8 bytes the size read answers, and DSIZE holds it whole; with fewer it is the error of `lzDetectStep_eq_raised`. -/
theorem taggedInputStartsDecompression : Obligations.TaggedInputStartsDecompression := by
  unfold Obligations.TaggedInputStartsDecompression
  intro s inp hinp htag
  refine ⟨fun hlen => ⟨_, _, ?_, settle_eq_next.2 (.inl (lzDetectStep_eq_ok.2
    ⟨inp, hinp, .inl ⟨isTagged_iff.2 htag, _, if_pos hlen, rfl⟩⟩))⟩, fun hlen => ?_⟩
  · exact toNat_ofNat_headerField rfl inp 4
  · exact settle_eq_next.2 (.inr ⟨_, lzDetectStep_eq_raised.2
      ⟨inp, hinp, isTagged_iff.2 htag, if_neg (Nat.not_le.2 hlen), rfl⟩, rfl⟩)

/-- A run begins with its first step. -/
theorem run_succ_of_step {s t : State} (h : step s = .next t) (k : Nat) : Host.Core.run core (k + 1) s = Host.Core.run core k t := by
  have hcore : core.step s = .next t := h
  simp only [Host.Core.run, hcore]

/-- A DECOMPRESS request is taken while the engine is free (45_operations R341). -/
theorem step_decompress_request {s : State} {inp : List Byte} {hb : Word} {rest : List Request}
    (hreq : s.requests = ⟨1, inp, hb⟩ :: rest) (hphase : busyPhase s.phase = false) (hfree : s.status.state ≠ .busy) :
    step s = .next (start .decompress inp hb { s with requests := rest }) := by
  have hfetch : fetch s = .ok (.request (.opDecompress inp hb) rest) := by
    rw [fetch_outside hphase, fetchRequest, hreq]
    rfl
  rw [step_of_fetch hfetch]
  exact if_neg hfree

/-- Untagged input is the LZ result of a DECOMPRESS as it is (44_lz_stream R302, 45_operations R346). -/
theorem step_untagged_decompress {s : State} {inp : List Byte} (hphase : s.phase = .lz) (hseq : s.seq = .first)
    (hop : s.op = some .decompress) (hinp : s.inp = some inp) (htag : inp.take 4 ≠ magicBytes s.params.lzMagic) :
    step s = .next { s with resBytes := some inp, seq := .complete } := by
  have hunit : decodeSequencer s.phase s.seq = some .lzDetect := by rw [hphase, hseq]; rfl
  rw [step_of_fetch (fetch_of_unit hunit)]
  exact settle_eq_next.2 (.inl (lzDetectStep_eq_ok.2
    ⟨inp, hinp, .inr ⟨Bool.eq_false_iff.2 (mt isTagged_iff.1 htag), leaveLz_eq_ok.2 (.inl ⟨hop, rfl⟩)⟩⟩))

/-- Settles O13: Start, the detection, and completion, one step each. -/
theorem untaggedInputPassesThrough : Obligations.UntaggedInputPassesThrough := by
  unfold Obligations.UntaggedInputPassesThrough
  intro s inp hb rest hreq hphase hfree htag
  have hstart := step_decompress_request hreq hphase hfree
  have hdetect := step_untagged_decompress (s := start .decompress inp hb { s with requests := rest }) rfl rfl rfl rfl htag
  rw [run_succ_of_step hstart, run_succ_of_step hdetect, run_succ_of_step (step_of_fetch (fetch_complete rfl rfl))]
  exact ⟨_, rfl, rfl, rfl⟩

end Sys2Proof.Machine

namespace Sys2Proof.Machine

/-! ## Missing payload bytes -/

theorem controlBit_eq_false_iff {f : Byte} : controlBit f = false ↔ f.toNat < 128 := by
  rw [controlBit, ← BitVec.msb_eq_getLsbD_last f, BitVec.msb_eq_false_iff_two_mul_lt]
  omega

/-- The bytes of `inp` from `ip` on end inside the token there: before its first byte, or, in a back-reference, before its second or before the
third of its long form (30_encoding R130, 44_lz_stream R312). -/
def TokenCutShort (lit : Bool) (inp : List Byte) (ip : Nat) : Prop :=
  inp.length ≤ ip ∨
  (lit = false ∧ inp.length = ip + 1) ∨
  (lit = false ∧ inp.length = ip + 2 ∧ ∃ b : Byte, inp[ip]? = some b ∧ b.toNat < 16)

/-- A token that is cut short does not decode. -/
theorem TokenCutShort.decodeToken_eq_none {lit : Bool} {inp : List Byte} {ip : Nat} (h : TokenCutShort lit inp ip) :
    decodeToken lit (inp.drop ip) = none := by
  have hlen : (inp.drop ip).length = inp.length - ip := List.length_drop
  obtain hend | ⟨rfl, hone⟩ | ⟨rfl, htwo, b, hb, hlong⟩ := h
  · rw [List.drop_eq_nil_of_le hend]
    cases lit <;> rfl
  · obtain ⟨b1, hbytes⟩ := List.length_eq_one_iff.1 (hlen.trans (by omega))
    rw [hbytes]
    rfl
  · obtain ⟨b1, b2, hbytes⟩ := List.length_eq_two.1 (hlen.trans (by omega))
    obtain rfl : b1 = b := Option.some.inj (by rw [← hb, ← List.head?_drop, hbytes]; rfl)
    rw [hbytes, decodeToken, if_pos ((highNibble_eq_zero_iff b1).2 (by omega))]

/-- The first missing byte is the one behind the input, or the one at IP when IP lies behind it already. -/
theorem TokenCutShort.fetchToken_eq {lit : Bool} {inp : List Byte} {ip : Nat} (h : TokenCutShort lit inp ip) (p : Params) :
    fetchToken p lit inp ip = lzTruncated ip inp.length := by
  obtain ⟨i, rest, hi, -⟩ | ⟨-, hfetch⟩ := fetchToken_cases p lit inp ip
  · cases h.decodeToken_eq_none.symm.trans hi
  · exact hfetch

section
variable {s : State} {inp out : List Byte} {size : Word} {ip n : Nat} (hinp : s.inp = some inp) (hout : s.out = some out)
  (hsize : s.dsize = some size) (hleft : out.length < size.toNat) (hip : s.ip = some ip) (hn : s.nbits = some n)
include hinp hout hsize hleft hip hn

/-- The control byte is missing (44_lz_stream R307). -/
theorem fetchLz_of_no_control (hzero : n = 0) (hend : inp.length ≤ ip) : fetchLz s = lzTruncated ip inp.length := by
  simp [fetchLz, hinp, hout, hsize, hip, hn, hzero, Nat.not_le.2 hleft, List.drop_eq_nil_of_le hend, decode]

/-- The control byte is there, and the token behind it is cut short (44_lz_stream R306, R312). -/
theorem fetchLz_of_control_cutShort (hzero : n = 0) {c : Byte} (hc : inp[ip]? = some c)
    (hcut : TokenCutShort (controlBit c) inp (ip + 1)) : fetchLz s = lzTruncated (ip + 1) inp.length := by
  obtain ⟨hlt, hget⟩ := List.getElem?_eq_some_iff.1 hc
  have hbytes : inp.drop ip = c :: inp.drop (ip + 1) := by rw [List.drop_eq_getElem_cons hlt, hget]
  simp [fetchLz, hinp, hout, hsize, hip, hn, hzero, Nat.not_le.2 hleft, hbytes, decode, hcut.fetchToken_eq, lzTruncated]

/-- Control bits are left, and the token at IP is cut short (44_lz_stream R306, R312). -/
theorem fetchLz_of_bits_cutShort (hpos : n ≠ 0) {f : Byte} (hf : s.flags = some f) (hcut : TokenCutShort (controlBit f) inp ip) :
    fetchLz s = lzTruncated ip inp.length := by
  simp [fetchLz, hinp, hout, hsize, hip, hn, hf, hpos, Nat.not_le.2 hleft, hcut.fetchToken_eq, lzTruncated]

end

/-- An LZ.STEP that misses a byte enters LzTruncated with the missing byte's index (44_lz_stream R307, R312). -/
theorem step_of_fetchLz_truncated {s : State} {a len addr : Nat} (hphase : s.phase = .lz) (hseq : s.seq = .loop)
    (h : fetchLz s = lzTruncated a len) (haddr : addr = max a len) :
    step s = .next (raiseError ⟨.lzTruncated, .decompress, (addr : Int)⟩ s) := by
  subst haddr
  exact step_of_fetch_raise ((fetch_loop hphase hseq).trans h)

/-- Settles O14: each of the seven places is a missing control byte or a token that is cut short, with or without a control byte before it. -/
theorem missingPayloadByteIsTruncation : Obligations.MissingPayloadByteIsTruncation := by
  unfold Obligations.MissingPayloadByteIsTruncation
  intro s inp out size ip n f hphase hseq hinp hout hsize hleft hip hn hf addr hmissing
  have hraise {a : Nat} := step_of_fetchLz_truncated (a := a) (len := inp.length) (addr := addr) hphase hseq
  have hcontrol := fetchLz_of_no_control hinp hout hsize hleft hip hn
  have hbehind {c : Byte} := fetchLz_of_control_cutShort hinp hout hsize hleft hip hn (c := c)
  have hbits := fetchLz_of_bits_cutShort (f := f) hinp hout hsize hleft hip hn
  obtain ⟨hzero, hend, haddr⟩ | ⟨hzero, hend, haddr⟩ | ⟨hzero, hend, ⟨c, hc, hlow⟩, haddr⟩ |
    ⟨hzero, hend, ⟨c, b, hc, hlow, hb, hlong⟩, haddr⟩ | ⟨hpos, hend, haddr⟩ | ⟨hpos, hlow, hend, haddr⟩ | ⟨hpos, hlow, hend, hlong, haddr⟩ := hmissing
  · exact hraise (hcontrol hzero hend) (by omega)
  · exact hraise (hbehind hzero (List.getElem?_eq_getElem (by omega)) (.inl (by omega))) (by omega)
  · exact hraise (hbehind hzero hc (.inr (.inl ⟨controlBit_eq_false_iff.2 hlow, hend⟩))) (by omega)
  · exact hraise (hbehind hzero hc (.inr (.inr ⟨controlBit_eq_false_iff.2 hlow, hend, b, hb, hlong⟩))) (by omega)
  · exact hraise (hbits hpos hf (.inl hend)) (by omega)
  · exact hraise (hbits hpos hf (.inr (.inl ⟨controlBit_eq_false_iff.2 hlow, hend⟩))) (by omega)
  · exact hraise (hbits hpos hf (.inr (.inr ⟨controlBit_eq_false_iff.2 hlow, hend, hlong⟩))) (by omega)

end Sys2Proof.Machine

namespace Sys2Proof.Machine

/-! ## Leaving LZ -/

/-- The LZ result `l` is complete: the input is untagged, or the loop has filled OUT (44_lz_stream R302, R306). -/
def LzComplete (s : State) (l : List Byte) : Prop :=
  (s.seq = .first ∧ s.inp = some l ∧ l.take 4 ≠ magicBytes s.params.lzMagic) ∨
  (s.seq = .loop ∧ s.out = some l ∧ ∃ size, s.dsize = some size ∧ size.toNat ≤ l.length)

theorem isTagged_eq_false_iff {p : Params} {inp : List Byte} : isTagged p inp = false ↔ inp.take 4 ≠ magicBytes p.lzMagic :=
  Bool.eq_false_iff.trans (not_congr isTagged_iff)

/-- The unit step of a phase is the instruction the sequencer selects. -/
theorem step_of_unit {s : State} {ph : Phase} {sq : Seq} {i : Instr} (hp : s.phase = ph) (hs : s.seq = sq)
    (hi : decodeSequencer ph sq = some i) : step s = exec i s :=
  step_of_fetch (fetch_of_unit (by rw [hp, hs, hi]))

theorem step_of_lzComplete {s : State} {l : List Byte} (hp : s.phase = .lz) (h : LzComplete s l) : step s = settle s (leaveLz l s) := by
  obtain ⟨hs, hinp, htag⟩ | ⟨hs, hout, size, hsize, hfull⟩ := h
  · have hdetect : lzDetectStep s = leaveLz l s := by simp [lzDetectStep, hinp, isTagged_eq_false_iff.2 htag]
    exact (step_of_unit hp hs rfl).trans (congrArg (settle s) hdetect)
  · exact step_of_fetch ((fetch_loop hp hs).trans (fetchLz_eq_ok.2 ⟨l, size, hout, hsize, .inl ⟨hfull, rfl⟩⟩))

/-- Settles O15: the two ways out of LZ are the one leaving (`step_of_lzComplete`), which the operation decides. -/
theorem leavingLzDeliversTheResult : Obligations.LeavingLzDeliversTheResult := by
  unfold Obligations.LeavingLzDeliversTheResult
  intro s l hp hcomplete
  have hstep := step_of_lzComplete hp hcomplete
  exact ⟨fun hop => hstep.trans (settle_eq_next.2 (.inl (leaveLz_eq_ok.2 (.inl ⟨hop, rfl⟩)))),
    fun hop => hstep.trans (settle_eq_next.2 (.inl (leaveLz_eq_ok.2 (.inr ⟨hop, rfl⟩))))⟩

end Sys2Proof.Machine

namespace Sys2Proof.Machine

/-! ## What one step of an operation leads to

Every step inside an operation enters an error, completes the operation, leaves its phase, or goes on inside it; and what goes on inside a phase
cannot do so for ever, since an LZ.STEP passes bytes of the input and an ASM.BLOCK passes a block of the image. -/

/-- The registers that no phase but LZ reads or writes, and the number of free values taken (44_lz_stream R305). -/
structure LzRegisters where
  freeCount : Nat
  inp : Option (List Byte)
  ip : Option Nat
  out : Option (List Byte)
  dsize : Option Word
  flags : Option Byte
  nbits : Option Nat
  src : Option Int
  cnt : Option Nat

def lzRegisters (s : State) : LzRegisters := ⟨s.freeCount, s.inp, s.ip, s.out, s.dsize, s.flags, s.nbits, s.src, s.cnt⟩

/-- The state with other LZ registers. -/
def setLzRegisters (x : LzRegisters) (s : State) : State :=
  { s with
    freeCount := x.freeCount, inp := x.inp, ip := x.ip, out := x.out, dsize := x.dsize, flags := x.flags, nbits := x.nbits, src := x.src
    cnt := x.cnt }

/-- `t` is `s` with other LZ registers. -/
def ChangesLzOnly (s t : State) : Prop := setLzRegisters (lzRegisters t) s = t

/-- The bytes of the input from IP on. -/
def bytesLeft (s : State) : Nat := (s.inp.getD []).length - s.ip.getD 0

/-- `t` is the entry of an error at `s`, or `s` with other LZ registers that leave fewer bytes of the input. -/
def FailsOrPasses (s t : State) : Prop := (∃ e, t = raiseError e s) ∨ ChangesLzOnly s t ∧ bytesLeft t < bytesLeft s

theorem settle_failsOrPasses {s t : State} {r : Res State} (hr : ∀ u, r = .ok u → FailsOrPasses s u) (h : settle s r = .next t) :
    FailsOrPasses s t := by
  obtain hok | ⟨e, -, rfl⟩ := settle_eq_next.1 h
  · exact hr t hok
  · exact .inl ⟨e, rfl⟩

/-- What one step of phase LZ leads to: it leaves the phase, enters an error, or is in the loop, with the LZ registers changed alone. -/
inductive LzStepsTo (s t : State) : Prop
  | leaves (l : List Byte) (hl : LzComplete s l) (ht : leaveLz l s = .ok t)
  | fails (e : Err) (ht : t = raiseError e s)
  | loops (ht : ChangesLzOnly { s with seq := .loop } t) (hleft : s.seq = .loop → bytesLeft t < bytesLeft s)

theorem lt_length_of_fetchToken {p : Params} {lit : Bool} {inp : List Byte} {ip : Nat} {i : Instr} (h : fetchToken p lit inp ip = .ok i) :
    ip < inp.length := by
  by_contra hend
  have hcut : TokenCutShort lit inp ip := .inl (Nat.not_lt.1 hend)
  cases (hcut.fetchToken_eq p).symm.trans h

theorem lzLitStep_passes {b : Byte} {inp : List Byte} {ip : Nat} {s t : State} (hinp : s.inp = some inp) (hip : s.ip = some ip)
    (hlt : ip < inp.length) (h : lzLitStep b s = .ok t) : FailsOrPasses s t := by
  obtain ⟨ip', out, f, n, hip', -, -, -, rfl⟩ := lzLitStep_eq_ok.1 h
  obtain rfl := Option.some.inj (hip.symm.trans hip')
  refine .inr ⟨rfl, ?_⟩
  simp only [bytesLeft, hinp, hip, Option.getD_some]
  omega

theorem lzRefStep_passes {bytes d n : Nat} (hbytes : 0 < bytes) {inp : List Byte} {ip : Nat} {s t : State} (hinp : s.inp = some inp)
    (hip : s.ip = some ip) (hlt : ip < inp.length) (h : lzRefStep bytes d n s = .ok t) : FailsOrPasses s t := by
  obtain ⟨ip', out, size, m, f, k, hip', -, -, -, -, -, -, rfl⟩ := lzRefStep_eq_ok.1 h
  obtain rfl := Option.some.inj (hip.symm.trans hip')
  refine .inr ⟨rfl, ?_⟩
  simp only [bytesLeft, hinp, hip, Option.getD_some]
  omega

/-- A token's bytes are passed, its first one being there. -/
theorem exec_token_passes {p : Params} {lit : Bool} {inp : List Byte} {ip : Nat} {i : Instr} {s t : State}
    (hi : fetchToken p lit inp ip = .ok i) (hinp : s.inp = some inp) (hip : s.ip = some ip) (h : exec i s = .next t) :
    FailsOrPasses s t := by
  have hlt := lt_length_of_fetchToken hi
  obtain ⟨b, rfl⟩ | ⟨n, d, rfl, -⟩ | ⟨d, m, rfl⟩ := token_of_fetchToken hi
  · exact settle_failsOrPasses (fun _ => lzLitStep_passes hinp hip hlt) h
  · exact settle_failsOrPasses (fun _ => lzRefStep_passes (by decide) hinp hip hlt) h
  · exact settle_failsOrPasses (fun _ => lzRefStep_passes (by decide) hinp hip hlt) h

/-- So are a control byte and the token's behind it; an error of the token is entered from the state before both. -/
theorem execTwo_token_passes {p : Params} {lit : Bool} {inp : List Byte} {ip : Nat} {c : Byte} {i : Instr} {s t : State}
    (hp : s.phase = .lz) (hi : fetchToken p lit inp (ip + 1) = .ok i) (hinp : s.inp = some inp) (hip : s.ip = some ip)
    (h : execTwo (.lzCtrl c) i s = .next t) : FailsOrPasses s t := by
  obtain ⟨u, v, hu, hv, rfl⟩ := execTwo_eq_next.1 h
  cases (controlByteLoads c s ip hip).symm.trans hu
  obtain ⟨e, rfl⟩ | ⟨honly, hleft⟩ := exec_token_passes hi (by exact hinp) rfl hv
  · exact .inl ⟨e, rfl⟩
  · have hphase : v.phase = s.phase := (congrArg State.phase honly).symm
    rw [if_neg (by rw [hphase, hp]; decide)]
    refine .inr ⟨honly, hleft.trans_le ?_⟩
    simp only [bytesLeft, hip, Option.getD_some]
    omega

/-- Every step of phase LZ before completion is one of the three. -/
theorem lzStepsTo_of_step {s t : State} (hp : s.phase = .lz) (hs : s.seq ≠ .complete) (h : step s = .next t) : LzStepsTo s t := by
  cases hseq : s.seq with
  | complete => exact absurd hseq hs
  | first =>
    rw [step_of_unit hp hseq rfl] at h
    obtain hok | ⟨e, -, rfl⟩ := settle_eq_next.1 h
    · obtain ⟨inp, hinp, ⟨-, size, -, rfl⟩ | ⟨htag, hleave⟩⟩ := lzDetectStep_eq_ok.1 hok
      · exact .loops rfl fun hloop => nomatch hseq.symm.trans hloop
      · exact .leaves inp (.inl ⟨hseq, hinp, isTagged_eq_false_iff.1 htag⟩) hleave
    · exact .fails e rfl
  | loop =>
    have hcases : FailsOrPasses s t → LzStepsTo s t := by
      rintro (⟨e, rfl⟩ | ⟨honly, hleft⟩)
      · exact .fails e rfl
      · exact .loops (by rw [← hseq]; exact honly) fun _ => hleft
    obtain ⟨todo, hfetch, hstep⟩ | ⟨e, -, hstep⟩ | ⟨f, -, hstep⟩ := step_cases s <;> rw [hstep] at h
    · rw [fetch_loop hp hseq] at hfetch
      obtain ⟨out, size, hout, hsize, ⟨hfull, rfl⟩ | ⟨-, inp, ip, n, hinp, hip, -, hread⟩⟩ := fetchLz_eq_ok.1 hfetch
      · obtain hok | ⟨e, he, -⟩ := settle_eq_next.1 h
        · exact .leaves out (.inr ⟨hseq, hout, size, hsize, hfull⟩) hok
        · exact absurd he (leaveLz_not_raised out s e)
      · obtain ⟨-, c, i, -, hi, rfl⟩ | ⟨-, f, i, -, hi, rfl⟩ := hread
        · exact hcases (execTwo_token_passes hp hi hinp hip h)
        · exact hcases (exec_token_passes hi hinp hip h)
    · cases h
      exact .fails e rfl
    · cases h

end Sys2Proof.Machine

namespace Sys2Proof.Machine

/-- The blocks of the image from BK on. -/
def blocksLeft (s : State) : Nat := s.geom.elim 0 Geom.nblk - s.bK.getD 0

/-- How far a phase, and a step of it, is from the operation's end: no operation goes back in 45_operations R345's order. -/
def stage (ph : Phase) (sq : Seq) : Nat :=
  (match ph with | .lz => 9 | .hdr => 6 | .pal => 3 | .asm | .idle | .done | .error => 0) +
  (match sq with | .first => 2 | .loop => 1 | .complete => 0)

/-- What every step inside an operation makes smaller: the stage, or, inside a loop, what the loop has left. -/
def progress (s : State) : ℕ ×ₗ ℕ := toLex (stage s.phase s.seq, bytesLeft s + blocksLeft s)

/-- A step from `s` to `t` follows the operation's order, and makes progress if it stays inside the operation. -/
def StepsOn (s t : State) : Prop :=
  phaseMayFollow s.op s.phase t.phase = true ∧ (busyPhase t.phase = true → progress t < progress s)

theorem progress_lt_of_stage {s t : State} (h : stage t.phase t.seq < stage s.phase s.seq) : progress t < progress s :=
  Prod.Lex.toLex_lt_toLex.2 (.inl h)

theorem progress_lt_of_left {s t : State} (hp : t.phase = s.phase) (hs : t.seq = s.seq)
    (h : bytesLeft t + blocksLeft t < bytesLeft s + blocksLeft s) : progress t < progress s :=
  Prod.Lex.toLex_lt_toLex.2 (.inr ⟨by rw [hp, hs], h⟩)

/-- Any phase of an operation can end in ERROR (45_operations R345). -/
theorem stepsOn_of_error {s t : State} (hb : busyPhase s.phase = true) (ht : t.phase = .error) : StepsOn s t := by
  unfold StepsOn
  rw [ht]
  cases hp : s.phase <;> simp_all [busyPhase, phaseMayFollow]

/-- A settled unit steps on when its result does. -/
theorem settle_stepsOn {s t : State} {r : Res State} (hb : busyPhase s.phase = true) (hr : ∀ u, r = .ok u → StepsOn s u)
    (h : settle s r = .next t) : StepsOn s t := by
  obtain hok | ⟨e, -, rfl⟩ := settle_eq_next.1 h
  · exact hr t hok
  · exact stepsOn_of_error hb rfl

theorem leaveLz_stepsOn {l : List Byte} {s t : State} (hp : s.phase = .lz) (hs : s.seq ≠ .complete) (h : leaveLz l s = .ok t) :
    StepsOn s t := by
  obtain ⟨-, rfl⟩ | ⟨hop, rfl⟩ := leaveLz_eq_ok.1 h
  · exact ⟨by simp [hp, phaseMayFollow], fun _ => progress_lt_of_stage (by cases hseq : s.seq <;> simp_all [stage])⟩
  · exact ⟨by simp [hp, hop, phaseMayFollow], fun _ => progress_lt_of_stage (by rw [hp]; simp [stage]; omega)⟩

/-- A step of phase LZ, from LZ.DETECT or from the loop. -/
theorem step_lz_stepsOn {s t : State} (hp : s.phase = .lz) (hs : s.seq ≠ .complete) (h : step s = .next t) : StepsOn s t := by
  obtain ⟨l, -, hleave⟩ | ⟨e, rfl⟩ | ⟨honly, hleft⟩ := lzStepsTo_of_step hp hs h
  · exact leaveLz_stepsOn hp hs hleave
  · exact stepsOn_of_error (by rw [hp]; rfl) rfl
  · have hphase : t.phase = .lz := (congrArg State.phase honly).symm.trans hp
    have hseq : t.seq = .loop := (congrArg State.seq honly).symm
    have hblocks : blocksLeft t = blocksLeft s := by rw [← honly]; rfl
    refine ⟨by rw [hp, hphase]; rfl, fun _ => ?_⟩
    cases hsq : s.seq with
    | complete => exact absurd hsq hs
    | first => exact progress_lt_of_stage (by rw [hp, hsq, hphase, hseq]; decide)
    | loop => exact progress_lt_of_left (hphase.trans hp.symm) (hseq.trans hsq.symm) (by have := hleft hsq; omega)

theorem hdrParseStep_stepsOn {s t : State} (hp : s.phase = .hdr) (hs : s.seq = .first) (h : hdrParseStep s = .ok t) : StepsOn s t := by
  obtain ⟨wb, hb, d, -, -, -, -, hleave⟩ := hdrParseStep_eq_ok.1 h
  obtain ⟨-, rfl⟩ | ⟨hop, rfl⟩ := leaveHdr_eq_ok.1 hleave
  · exact ⟨by simp [hp, phaseMayFollow], fun _ => progress_lt_of_stage (by simp [hp, hs, stage])⟩
  · rw [loadDsc_op] at hop
    exact ⟨by simp [hp, hop, phaseMayFollow], fun _ => progress_lt_of_stage (by simp [hp, hs, stage])⟩

theorem palDecodeStep_stepsOn {s t : State} (hp : s.phase = .pal) (hs : s.seq = .first) (h : palDecodeStep s = .ok t) : StepsOn s t := by
  obtain ⟨d, pal, -, rfl, -⟩ := palDecodeStep_eq_ok.1 h
  exact ⟨by simp [hp, phaseMayFollow], fun _ => progress_lt_of_stage (by simp [hp, hs, stage])⟩

@[simp] theorem asmNext_phase (finished : Bool) (d : Dsc) (pb : PixBuf) (s : State) : (asmNext finished d pb s).phase = s.phase := by
  cases finished <;> rfl

@[simp] theorem asmNext_geom (finished : Bool) (d : Dsc) (pb : PixBuf) (s : State) : (asmNext finished d pb s).geom = s.geom := by
  cases finished <;> rfl

theorem asmNext_seq (finished : Bool) (d : Dsc) (pb : PixBuf) (s : State) :
    (asmNext finished d pb s).seq = if finished then .complete else .loop := by
  cases finished <;> rfl

theorem asmStartStep_stepsOn {s t : State} (hp : s.phase = .asm) (hs : s.seq = .first) (h : asmStartStep s = .ok t) : StepsOn s t := by
  obtain ⟨d, -, rfl⟩ := asmStartStep_eq_ok.1 h
  refine ⟨by simp [hp, phaseMayFollow], fun _ => progress_lt_of_stage ?_⟩
  rw [asmNext_phase, asmNext_seq, hs]
  split <;> simp [hp, stage]

/-- ASM.BLOCK at block `k` of the walk: it finishes the image, or one block fewer is left. -/
theorem exec_asmBlock_stepsOn {s t : State} {d : Dsc} {k : Nat} (hp : s.phase = .asm) (hs : s.seq = .loop) (hdsc : DscLoaded s d)
    (hwalk : WalkAt s d k) (h : exec .asmBlock s = .next t) : StepsOn s t := by
  by_cases herr : t.phase = .error
  · exact stepsOn_of_error (by rw [hp]; rfl) herr
  obtain ⟨hb, wb, pal, pb, -, -, -, -, rfl⟩ := afterBlock_of_exec hdsc hwalk h herr
  obtain ⟨-, -, hgeom⟩ := hdsc
  obtain ⟨hbK, hk, -⟩ := hwalk
  rw [afterBlock_of_walk hk]
  refine ⟨by simp [hp, phaseMayFollow], fun _ => ?_⟩
  by_cases hlast : (geometryOf d).nblk ≤ k + 1
  · exact progress_lt_of_stage (by simp [asmNext_seq, hlast, hp, hs, stage])
  · rw [decide_eq_false hlast]
    refine progress_lt_of_left rfl hs.symm (Nat.add_lt_add_left ?_ (bytesLeft s))
    simp only [blocksLeft, asmNext_geom, asmNext_bK, hgeom, hbK, Option.elim_some, Option.getD_some]
    omega

/-- Completion: DONE follows the last phase of the operation, and no other (45_operations R345, R349). -/
theorem completeOp_stepsOn {s : State} (h : Live s) (hb : busyPhase s.phase = true) (hs : s.seq = .complete) : StepsOn s (completeOp s) := by
  refine ⟨?_, nofun⟩
  have hready := h.ready
  cases hp : s.phase <;> simp only [Ready, hp, hs] at hready
  case lz | hdr | asm => simp [phaseMayFollow, hready]
  case idle | done | error => simp [hp, busyPhase] at hb

/-- Every step inside an operation. -/
theorem Live.stepsOn {s t : State} (h : Live s) (hb : busyPhase s.phase = true) (hstep : step s = .next t) : StepsOn s t := by
  cases hs : s.seq with
  | complete =>
    cases (step_of_fetch (fetch_complete hb hs)).symm.trans hstep
    exact completeOp_stepsOn h hb hs
  | first =>
    cases hp : s.phase with
    | lz => exact step_lz_stepsOn hp (by simp [hs]) hstep
    | hdr => exact settle_stepsOn hb (fun _ => hdrParseStep_stepsOn hp hs) ((step_of_unit hp hs rfl).symm.trans hstep)
    | pal => exact settle_stepsOn hb (fun _ => palDecodeStep_stepsOn hp hs) ((step_of_unit hp hs rfl).symm.trans hstep)
    | asm => exact settle_stepsOn hb (fun _ => asmStartStep_stepsOn hp hs) ((step_of_unit hp hs rfl).symm.trans hstep)
    | idle | done | error => simp [hp, busyPhase] at hb
  | loop =>
    have hready := h.ready
    cases hp : s.phase <;> simp only [Ready, hp, hs] at hready
    case lz => exact step_lz_stepsOn hp (by simp [hs]) hstep
    case asm =>
      obtain ⟨-, -, -, -, -, d, k, hdsc, hwalk⟩ := hready
      exact exec_asmBlock_stepsOn hp hs hdsc hwalk ((step_of_unit hp hs rfl).symm.trans hstep)
    case idle | done | error => simp [hp, busyPhase] at hb

/-- Settles O56: the order is the first half of `StepsOn`. -/
theorem phasesFollowTheOperation : Obligations.PhasesFollowTheOperation := by
  unfold Obligations.PhasesFollowTheOperation
  intro s t hinv hb hstep
  obtain ⟨hlive, -⟩ := inv_iff_live.1 hinv
  exact (hlive.stepsOn hb hstep).1

/-- What an operation's phase is followed by outside the operation is one of its two ends. -/
theorem end_of_phaseMayFollow {op : Option OpCode} {p q : Phase} (h : phaseMayFollow op p q = true) (hq : busyPhase q = false) :
    q = .done ∨ q = .error := by
  cases q <;> simp_all [busyPhase]
  cases p <;> cases h

/-- By well-founded induction on `progress`: the step either stays inside the operation, with less to do, or reaches one of its ends. -/
theorem Live.ends {s : State} (h : Live s) (hb : busyPhase s.phase = true) :
    ∃ k t, Host.Core.run core k s = .next t ∧ (t.phase = .done ∨ t.phase = .error) := by
  induction hn : progress s using WellFoundedLT.induction generalizing s with
  | ind n ih =>
    obtain ⟨u, hstep, hu⟩ := step_live h
    obtain ⟨hfollow, hless⟩ := h.stepsOn hb hstep
    cases hbusy : busyPhase u.phase with
    | true =>
      obtain ⟨k, t, hrun, hend⟩ := ih _ (hn ▸ hless hbusy) hu hbusy rfl
      exact ⟨k + 1, t, (run_succ_of_step hstep k).trans hrun, hend⟩
    | false => exact ⟨1, u, run_succ_of_step hstep 0, end_of_phaseMayFollow hfollow hbusy⟩

/-- Settles O58: a state of the invariant is live, and every operation of a live state ends (`Live.ends`). -/
theorem everyOperationEnds : Obligations.EveryOperationEnds := by
  unfold Obligations.EveryOperationEnds
  intro s hinv hb
  obtain ⟨hlive, -⟩ := inv_iff_live.1 hinv
  exact hlive.ends hb

end Sys2Proof.Machine

namespace Sys2Proof.Machine

/-! ## Starting and completing an operation -/

/-- The instruction of an operation (30_encoding R124). -/
def opInstr (inp : List Byte) (hb : Word) : OpCode → Instr
  | .decompress => .opDecompress inp hb
  | .parseHeader => .opParseHeader inp hb
  | .decode => .opDecode inp hb

/-- The state in which an operation starts: PARSE_HEADER's work buffer is the input as given (45_operations R341, R352). -/
def started (inp : List Byte) (hb : Word) (s : State) : OpCode → State
  | .decompress => start .decompress inp hb s
  | .parseHeader => { start .parseHeader inp hb s with wb := some inp }
  | .decode => start .decode inp hb s

theorem exec_opInstr {s : State} (hfree : s.status.state ≠ .busy) (inp : List Byte) (hb : Word) (op : OpCode) :
    exec (opInstr inp hb op) s = .next (started inp hb s op) := by
  cases op <;> exact if_neg hfree

/-- Settles O40: the three cases of `exec_opInstr`, and the refusal while STATE is BUSY. -/
theorem operationsStart : Obligations.OperationsStart := by
  unfold Obligations.OperationsStart
  refine ⟨fun s inp hb hfree i op ph wb hi => ?_, fun s inp hb hbusy => ⟨if_pos hbusy, if_pos hbusy, if_pos hbusy⟩⟩
  obtain ⟨rfl, rfl, rfl, rfl⟩ | ⟨rfl, rfl, rfl, rfl⟩ | ⟨rfl, rfl, rfl, rfl⟩ := hi
  · exact exec_opInstr hfree inp hb .decompress
  · exact exec_opInstr hfree inp hb .parseHeader
  · exact exec_opInstr hfree inp hb .decode

/-- A legal request code is that of an operation (30_encoding R124). -/
theorem decodeRequest_of_legal {r : Request} (h : r.op = 1 ∨ r.op = 2 ∨ r.op = 3) :
    ∃ op, decodeRequest r = some (opInstr r.inp r.hb op) ∧
      ((r.op = 1 ∧ op = .decompress) ∨ (r.op = 2 ∧ op = .parseHeader) ∨ (r.op = 3 ∧ op = .decode)) := by
  obtain h | h | h := h
  · exact ⟨.decompress, by simp [decodeRequest, h, opInstr], .inl ⟨h, rfl⟩⟩
  · exact ⟨.parseHeader, by simp [decodeRequest, h, opInstr], .inr (.inl ⟨h, rfl⟩)⟩
  · exact ⟨.decode, by simp [decodeRequest, h, opInstr], .inr (.inr ⟨h, rfl⟩)⟩

/-- Outside an operation the next request is taken, and starts its operation while the engine is free (45_operations R341). -/
theorem step_request {s : State} {r : Request} {rest : List Request} {op : OpCode} (hreq : s.requests = r :: rest)
    (hphase : busyPhase s.phase = false) (hfree : s.status.state ≠ .busy) (hop : decodeRequest r = some (opInstr r.inp r.hb op)) :
    step s = .next (started r.inp r.hb { s with requests := rest } op) := by
  have hfetch : fetch s = .ok (.request (opInstr r.inp r.hb op) rest) := by
    rw [fetch_outside hphase]
    simp [fetchRequest, hreq, decode, hop]
  rw [step_of_fetch hfetch]
  exact exec_opInstr (s := { s with requests := rest }) hfree ..

/-- A request with another code is gone, and nothing else happens (notes/assumptions/5.md). -/
theorem step_illegal_request {s : State} {r : Request} {rest : List Request} (hreq : s.requests = r :: rest)
    (hphase : busyPhase s.phase = false) (hop : decodeRequest r = none) : step s = .next { s with requests := rest } := by
  have hfetch : fetch s = .ok (.drop rest) := by
    rw [fetch_outside hphase]
    simp [fetchRequest, hreq, decode, hop]
  exact step_of_fetch hfetch

/-- Settles O41: `step_request` for the three codes, `step_illegal_request` for any other. -/
theorem requestsStartOperations : Obligations.RequestsStartOperations := by
  unfold Obligations.RequestsStartOperations
  refine fun s r rest hreq hphase hfree => ⟨fun hlegal => ?_, fun h1 h2 h3 => ?_⟩
  · obtain ⟨op, hdec, hop⟩ := decodeRequest_of_legal hlegal
    refine ⟨_, step_request hreq hphase hfree hdec, ?_⟩
    obtain ⟨h, rfl⟩ | ⟨h, rfl⟩ | ⟨h, rfl⟩ := hop <;> simp [started, h, State.inLen, noResults]
  · exact step_illegal_request hreq hphase (by simp [decodeRequest, h1, h2, h3])

theorem step_complete {s : State} (hb : busyPhase s.phase = true) (hs : s.seq = .complete) : step s = .next (completeOp s) :=
  step_of_fetch (fetch_complete hb hs)

/-- Settles O42: what is fetched is completion, and it writes PHASE and STATE (`completeOp`). -/
theorem completionSetsDone : Obligations.CompletionSetsDone := by
  unfold Obligations.CompletionSetsDone
  exact fun s hb hs => step_complete hb hs

/-- PARSE_HEADER's one unit step, on a header whose codes are known (40_header R151, 45_operations R347). -/
theorem step_parseHeader {s : State} {wb : List Byte} {hb : Word} {d : Dsc} (hp : s.phase = .hdr) (hs : s.seq = .first)
    (hop : s.op = some .parseHeader) (hwb : s.wb = some wb) (hhb : s.hb = some hb) (hin : hb.toNat + 0x20 ≤ wb.length)
    (hdec : decodeHeader s.params ((wb.drop hb.toNat).take 0x20) = .ok d) :
    step s = .next { loadDsc d s with resRegion := some (regionSize s.params d), resDsc := some d, seq := .complete } := by
  rw [step_of_unit hp hs rfl]
  exact settle_eq_next.2 (.inl (hdrParseStep_eq_ok.2 ⟨wb, hb, d, hwb, hhb, hin, hdec, leaveHdr_eq_ok.2 (.inl ⟨hop, rfl⟩)⟩))

/-- Settles O48: Start, HDR.PARSE, and completion, one step each. -/
theorem parseHeaderDeliversTheDescriptor : Obligations.ParseHeaderDeliversTheDescriptor := by
  unfold Obligations.ParseHeaderDeliversTheDescriptor
  intro s inp hb rest d hreq hphase hfree hin hdec
  have hstart := step_request (op := .parseHeader) hreq hphase hfree rfl
  have hparse := step_parseHeader (s := started inp hb { s with requests := rest } .parseHeader) rfl rfl rfl rfl rfl hin hdec
  rw [run_succ_of_step hstart, run_succ_of_step hparse, run_succ_of_step (step_complete rfl rfl)]
  exact ⟨_, rfl, rfl, rfl, rfl, rfl, rfl⟩

end Sys2Proof.Machine

namespace Sys2Proof.Machine

/-! ## What a step does not depend on

A change of state `f` commutes with a step when the step neither reads nor writes what `f` changes: then the step from `f s` answers what the step
from `s` answers, changed by `f`. -/

/-- What a step is made of commutes with `f`: the fetch, the entry of an error, and what is done. -/
theorem step_map {f : State → State} {s : State} (hfetch : fetch (f s) = fetch s) (hraise : ∀ e, raiseError e (f s) = f (raiseError e s))
    (hperform : ∀ todo, fetch s = .ok todo → perform todo (f s) = mapNext f (perform todo s)) : step (f s) = mapNext f (step s) := by
  obtain ⟨todo, hok, hstep⟩ | ⟨e, he, hstep⟩ | ⟨x, hx, hstep⟩ := step_cases s <;> rw [hstep]
  · rw [step_of_fetch (hfetch.trans hok), hperform todo hok]
  · rw [step_of_fetch_raise (hfetch.trans he), hraise]
    rfl
  · simp [step, advance, hfetch, hx, mapNext]

/-! A unit is built of reads, of units run before it, and of tests; it commutes with `f` when its parts do. -/

section
variable {f : State → State}

theorem read_eq_map {α : Type} {x : Res α} {k k' : α → Res State} (h : ∀ a, k' a = (k a).map f) : (x >>= k') = (x >>= k).map f := by
  rcases x with e | a
  · rfl
  · exact h a

theorem bind_eq_map {x x' : Res State} {k k' : State → Res State} (hx : x' = x.map f) (h : ∀ t, k' (f t) = (k t).map f) :
    (x' >>= k') = (x >>= k).map f := by
  rw [hx]
  rcases x with e | t
  · rfl
  · exact h t

theorem ite_eq_map {c : Prop} [Decidable c] {x y x' y' : Res State} (hx : x' = x.map f) (hy : y' = y.map f) :
    (if c then x' else y') = (if c then x else y).map f := by
  split <;> assumption

end

/-- The state with other requests and other LZ registers, which no step after phase LZ reads or writes. -/
def mapLz (fr : List Request → List Request) (g : LzRegisters → LzRegisters) (s : State) : State :=
  setLzRegisters (g (lzRegisters s)) { s with requests := fr s.requests }

section
variable (fr : List Request → List Request) (g : LzRegisters → LzRegisters) (s : State)

theorem leaveLz_mapLz (l : List Byte) : leaveLz l (mapLz fr g s) = (leaveLz l s).map (mapLz fr g) :=
  read_eq_map fun op => by cases op <;> rfl

theorem leaveHdr_mapLz (d : Dsc) : leaveHdr d (mapLz fr g s) = (leaveHdr d s).map (mapLz fr g) :=
  read_eq_map fun op => by cases op <;> rfl

theorem hdrParseStep_mapLz : hdrParseStep (mapLz fr g s) = (hdrParseStep s).map (mapLz fr g) := by
  have hparams : (mapLz fr g s).params = s.params := rfl
  refine read_eq_map fun wb => read_eq_map fun hb => ite_eq_map rfl ?_
  rw [hparams]
  cases decodeHeader s.params ((wb.drop hb.toNat).take 0x20) with
  | badFormat raw => rfl
  | badPalFormat raw => rfl
  | ok d => exact leaveHdr_mapLz fr g (loadDsc d s) d

theorem palDecodeStep_mapLz : palDecodeStep (mapLz fr g s) = (palDecodeStep s).map (mapLz fr g) :=
  read_eq_map fun _ => ite_eq_map (read_eq_map fun _ => ite_eq_map rfl (read_eq_map fun _ => ite_eq_map rfl rfl)) rfl

theorem asmNext_mapLz (finished : Bool) (d : Dsc) (pb : PixBuf) :
    asmNext finished d pb (mapLz fr g s) = mapLz fr g (asmNext finished d pb s) := by
  cases finished <;> rfl

theorem asmStartStep_mapLz : asmStartStep (mapLz fr g s) = (asmStartStep s).map (mapLz fr g) :=
  read_eq_map fun d => congrArg Except.ok (asmNext_mapLz fr g { s with
    pb := some (newPixBuf d.width.toNat d.height.toNat), bX := some 0, bY := some 0, bK := some 0 } _ d _)

theorem runFormat_mapLz (f : PixFmt) : runFormat f (mapLz fr g s) = (runFormat f s).map (mapLz fr g) :=
  read_eq_map fun _ => ite_eq_map rfl (ite_eq_map (read_eq_map fun _ => rfl) rfl)

theorem asmBlockStep_mapLz : asmBlockStep (mapLz fr g s) = (asmBlockStep s).map (mapLz fr g) :=
  read_eq_map fun d => read_eq_map fun _ => read_eq_map fun _ => read_eq_map fun _ => read_eq_map fun k =>
    ite_eq_map rfl <| bind_eq_map (runFormat_mapLz fr g { s with blk := some _ } d.format) fun t =>
      read_eq_map fun _ => read_eq_map fun _ => read_eq_map fun _ => read_eq_map fun _ =>
        congrArg Except.ok (asmNext_mapLz fr g { t with
          blk := none, pb := some _, bK := some (k + 1), bX := some _, bY := some _ } _ d _)

theorem settle_mapLz {r r' : Res State} (h : r' = r.map (mapLz fr g)) :
    settle (mapLz fr g s) r' = mapNext (mapLz fr g) (settle s r) := by
  rw [h]
  exact settle_map (fun _ => rfl) r

/-- The units after LZ: HDR.PARSE, PAL.DECODE, ASM.START, ASM.BLOCK. -/
theorem exec_mapLz_of_late {ph : Phase} {sq : Seq} {i : Instr} (hp : ph ≠ .lz) (hi : decodeSequencer ph sq = some i) :
    exec i (mapLz fr g s) = mapNext (mapLz fr g) (exec i s) := by
  cases ph <;> cases sq <;> cases hi
  case lz => exact absurd rfl hp
  case hdr => exact settle_mapLz fr g s (hdrParseStep_mapLz fr g s)
  case pal => exact settle_mapLz fr g s (palDecodeStep_mapLz fr g s)
  case asm.first => exact settle_mapLz fr g s (asmStartStep_mapLz fr g s)
  case asm.loop => exact settle_mapLz fr g s (asmBlockStep_mapLz fr g s)

end

/-- Outside the LZ loop the next step is selected by PHASE and the sequencer alone (45_operations R345). -/
theorem fetch_of_not_loop {s : State} (hb : busyPhase s.phase = true) (hl : ¬(s.phase = .lz ∧ s.seq = .loop)) :
    fetch s = if s.seq = .complete then .ok .complete else fetchUnit s := by
  unfold fetch
  cases hp : s.phase <;> cases hs : s.seq <;> simp_all [busyPhase]

theorem fetchUnit_eq_ok {s : State} {todo : Todo} : fetchUnit s = .ok todo ↔ ∃ i, decodeSequencer s.phase s.seq = some i ∧ todo = .one i := by
  unfold fetchUnit
  cases hi : decodeSequencer s.phase s.seq <;> simp [decode, hi, faultWith, eq_comm]

/-- No step of a phase after LZ depends on the requests that wait or on the LZ registers. -/
theorem step_mapLz {s : State} (hb : busyPhase s.phase = true) (hp : s.phase ≠ .lz) (fr : List Request → List Request)
    (g : LzRegisters → LzRegisters) : step (mapLz fr g s) = mapNext (mapLz fr g) (step s) := by
  have hloop : ¬(s.phase = .lz ∧ s.seq = .loop) := fun h => hp h.1
  have hfetch := fetch_of_not_loop hb hloop
  refine step_map ((fetch_of_not_loop (s := mapLz fr g s) hb hloop).trans hfetch.symm) (fun _ => rfl) fun todo htodo => ?_
  rw [hfetch] at htodo
  split at htodo
  · cases htodo
    rfl
  · obtain ⟨i, hi, rfl⟩ := fetchUnit_eq_ok.1 htodo
    exact exec_mapLz_of_late fr g s hp hi

/-! ### Phase LZ -/

/-- The state with other requests, another operation, and another number of free values taken, which no token reads or writes. -/
def mapHost (fr : List Request → List Request) (fo : Option OpCode → Option OpCode) (fc : Nat → Nat) (s : State) : State :=
  { s with requests := fr s.requests, op := fo s.op, freeCount := fc s.freeCount }

section
variable (fr : List Request → List Request) (fo : Option OpCode → Option OpCode) (fc : Nat → Nat) (s : State)

theorem afterToken_mapHost : afterToken (mapHost fr fo fc s) = (afterToken s).map (mapHost fr fo fc) :=
  read_eq_map fun _ => read_eq_map fun _ => rfl

theorem lzCtrlStep_mapHost (f : Byte) : lzCtrlStep f (mapHost fr fo fc s) = (lzCtrlStep f s).map (mapHost fr fo fc) :=
  read_eq_map fun _ => rfl

theorem lzLitStep_mapHost (b : Byte) : lzLitStep b (mapHost fr fo fc s) = (lzLitStep b s).map (mapHost fr fo fc) :=
  read_eq_map fun _ => read_eq_map fun _ => afterToken_mapHost fr fo fc { s with ip := some _, out := some _ }

theorem lzRefStep_mapHost (bytes d n : Nat) : lzRefStep bytes d n (mapHost fr fo fc s) = (lzRefStep bytes d n s).map (mapHost fr fo fc) :=
  read_eq_map fun _ => read_eq_map fun _ => ite_eq_map rfl <| read_eq_map fun _ => read_eq_map fun _ =>
    afterToken_mapHost fr fo fc { s with ip := some _, out := some _, src := some _, cnt := some 0 }

theorem settle_mapHost {r r' : Res State} (h : r' = r.map (mapHost fr fo fc)) :
    settle (mapHost fr fo fc s) r' = mapNext (mapHost fr fo fc) (settle s r) := by
  rw [h]
  exact settle_map (fun _ => rfl) r

theorem exec_token_mapHost {p : Params} {lit : Bool} {inp : List Byte} {ip : Nat} {i : Instr} (hi : fetchToken p lit inp ip = .ok i) :
    exec i (mapHost fr fo fc s) = mapNext (mapHost fr fo fc) (exec i s) := by
  obtain ⟨b, rfl⟩ | ⟨n, d, rfl, -⟩ | ⟨d, m, rfl⟩ := token_of_fetchToken hi
  · exact settle_mapHost fr fo fc s (lzLitStep_mapHost fr fo fc s b)
  · exact settle_mapHost fr fo fc s (lzRefStep_mapHost fr fo fc s 2 d.toNat (shortLength n))
  · exact settle_mapHost fr fo fc s (lzRefStep_mapHost fr fo fc s 3 d.toNat (longLength m))

theorem execTwo_token_mapHost {p : Params} {lit : Bool} {inp : List Byte} {ip : Nat} {i : Instr} (hi : fetchToken p lit inp ip = .ok i)
    (c : Byte) : execTwo (.lzCtrl c) i (mapHost fr fo fc s) = mapNext (mapHost fr fo fc) (execTwo (.lzCtrl c) i s) := by
  have hctrl : exec (.lzCtrl c) (mapHost fr fo fc s) = mapNext (mapHost fr fo fc) (exec (.lzCtrl c) s) :=
    settle_mapHost fr fo fc s (lzCtrlStep_mapHost fr fo fc s c)
  unfold execTwo
  rw [hctrl]
  cases exec (.lzCtrl c) s with
  | fault x | refused x => rfl
  | next u =>
    simp only [mapNext, exec_token_mapHost fr fo fc u hi]
    cases exec i u with
    | fault x | refused x => rfl
    | next t => exact congrArg Host.Outcome.next (apply_ite (mapHost fr fo fc) _ (abortTo s t) t).symm

end

/-- An LZ.STEP that does not leave the loop depends neither on the requests that wait, nor on the operation, nor on the free values taken. -/
theorem step_loop_mapHost {s : State} (hp : s.phase = .lz) (hs : s.seq = .loop) (hgo : ∀ l, ¬LzComplete s l)
    (fr : List Request → List Request) (fo : Option OpCode → Option OpCode) (fc : Nat → Nat) :
    step (mapHost fr fo fc s) = mapNext (mapHost fr fo fc) (step s) := by
  have hfetch := fetch_loop hp hs
  refine step_map ((fetch_loop (s := mapHost fr fo fc s) hp hs).trans hfetch.symm) (fun _ => rfl) fun todo htodo => ?_
  obtain ⟨out, size, hout, hsize, ⟨hfull, -⟩ | ⟨-, inp, ip, n, -, -, -, ⟨-, c, i, -, hi, rfl⟩ | ⟨-, f, i, -, hi, rfl⟩⟩⟩ :=
    fetchLz_eq_ok.1 (hfetch.symm.trans htodo)
  · exact absurd (.inr ⟨hs, hout, size, hsize, hfull⟩) (hgo out)
  · exact execTwo_token_mapHost fr fo fc s hi c
  · exact exec_token_mapHost fr fo fc s hi

/-- On input that is not passed through LZ.DETECT reads a size, from IN alone, and runs LZ.INIT with it (44_lz_stream R303, R305). -/
theorem lzDetectStep_of_not_complete {s : State} (hs : s.seq = .first) (hgo : ∀ l, ¬LzComplete s l) :
    ∃ r : Res Nat, ∀ s' : State, s'.inp = s.inp → s'.params = s.params → lzDetectStep s' = r.map (lzInit · s') := by
  rcases hinp : s.inp with _ | inp
  · exact ⟨.error (.faulted (.noValue .inp)), fun s' hinp' _ => by rw [lzDetectStep, hinp']; rfl⟩
  · have htag : isTagged s.params inp = true := by
      by_contra hraw
      exact hgo inp (.inl ⟨hs, hinp, mt isTagged_iff.2 hraw⟩)
    cases hsize : memRead inp 4 4 with
    | none =>
      refine ⟨raise .outOfRange .decompress 4, fun s' hinp' hparams => ?_⟩
      simp [lzDetectStep, hinp', hparams, htag, hsize, raise, Except.map]
    | some size =>
      refine ⟨.ok size, fun s' hinp' hparams => ?_⟩
      simp [lzDetectStep, hinp', hparams, htag, hsize, Except.map]

/-- A step of phase LZ that does not leave it depends neither on the requests that wait nor on the operation; LZ.DETECT takes a free value and
counts it. -/
theorem step_lz_mapHost {s : State} (hp : s.phase = .lz) (hs : s.seq ≠ .complete) (hgo : ∀ l, ¬LzComplete s l)
    (fr : List Request → List Request) (fo : Option OpCode → Option OpCode) :
    step (mapHost fr fo id s) = mapNext (mapHost fr fo id) (step s) := by
  cases hseq : s.seq with
  | complete => exact absurd hseq hs
  | loop => exact step_loop_mapHost hp hseq hgo fr fo id
  | first =>
    have hdetect : lzDetectStep (mapHost fr fo id s) = (lzDetectStep s).map (mapHost fr fo id) := by
      obtain ⟨r, hr⟩ := lzDetectStep_of_not_complete hseq hgo
      rw [hr s rfl rfl, hr (mapHost fr fo id s) rfl rfl]
      cases r <;> rfl
    rw [step_of_unit hp hseq rfl, step_of_unit (s := mapHost fr fo id s) hp hseq rfl]
    exact settle_mapHost fr fo id s hdetect

/-- Leaving LZ depends on the operation, but neither on the requests that wait nor on the LZ registers beside the result. -/
theorem step_mapLz_of_lzComplete {s : State} {l : List Byte} {fr : List Request → List Request} {g : LzRegisters → LzRegisters}
    (hp : s.phase = .lz) (h : LzComplete s l) (h' : LzComplete (mapLz fr g s) l) :
    step (mapLz fr g s) = mapNext (mapLz fr g) (step s) := by
  rw [step_of_lzComplete hp h, step_of_lzComplete (s := mapLz fr g s) hp h']
  exact settle_mapLz fr g s (leaveLz_mapLz fr g s l)

/-- Settles O57: completion, a step after LZ, leaving LZ, and a step inside LZ each leave the requests that wait alone. -/
theorem requestsCannotDisturbAnOperation : Obligations.RequestsCannotDisturbAnOperation := by
  unfold Obligations.RequestsCannotDisturbAnOperation
  intro s q hb
  by_cases hp : s.phase = .lz
  · by_cases hs : s.seq = .complete
    · rw [step_complete hb hs, step_complete (s := { s with requests := q }) hb hs]
      rfl
    · by_cases hdone : ∃ l, LzComplete s l
      · obtain ⟨l, hl⟩ := hdone
        exact step_mapLz_of_lzComplete (fr := fun _ => q) (g := id) hp hl hl
      · exact step_lz_mapHost hp hs (not_exists.1 hdone) (fun _ => q) id
  · exact step_mapLz hb hp (fun _ => q) id

end Sys2Proof.Machine

namespace Sys2Proof.Machine

/-! ## Runs of one operation -/

theorem step_wait {s : State} (hb : busyPhase s.phase = false) (hreq : s.requests = []) : step s = .next s := by
  refine step_of_fetch (todo := .wait) ?_
  rw [fetch_outside hb, fetchRequest, hreq]

/-- Inside an operation the requests wait. -/
theorem step_requests {s t : State} (hb : busyPhase s.phase = true) (h : step s = .next t) : t.requests = s.requests := by
  have hsame : step s = mapNext (fun t => { t with requests := s.requests }) (step s) := requestsCannotDisturbAnOperation s s.requests hb
  rw [h] at hsame
  injection hsame with hsame
  rw [hsame]

/-- With no request left none comes. -/
theorem step_no_requests {s t : State} (hreq : s.requests = []) (h : step s = .next t) : t.requests = [] := by
  cases hb : busyPhase s.phase with
  | true => exact (step_requests hb h).trans hreq
  | false =>
    cases (step_wait hb hreq).symm.trans h
    exact hreq

/-! ## Two operations with the same request

The two runs differ in the number of free values taken and, while no control bit is left, in FLAGS, which LZ.INIT took from them. -/

/-- Other control bits. -/
def setFlags (f : Option Byte) (s : State) : State := { s with flags := f }

/-- Another number of free values taken. -/
def setFreeCount (c : Nat) : State → State := mapHost id id fun _ => c

/-- Another number of free values taken, and other control bits if none of them is valid (44_lz_stream R305). -/
def mapFree (c : Nat) (f : Option Byte) (s : State) : State :=
  setFlags (if s.nbits = some 0 then f else s.flags) (setFreeCount c s)

theorem mapFree_of_no_bits {s : State} (hn : s.nbits = some 0) (c : Nat) (f : Option Byte) :
    mapFree c f s = setFlags f (setFreeCount c s) := by
  rw [mapFree, if_pos hn]

theorem mapFree_of_bits {s : State} (hn : s.nbits ≠ some 0) (c : Nat) (f : Option Byte) : mapFree c f s = setFreeCount c s := by
  rw [mapFree, if_neg hn]
  rfl

theorem mapFree_flags (c : Nat) (s : State) : mapFree c s.flags s = setFreeCount c s := by
  rw [mapFree, ite_self]
  rfl

theorem mapFree_mapFree (c c' : Nat) (f f' : Option Byte) (s : State) : mapFree c' f' (mapFree c f s) = mapFree c' f' s := by
  by_cases hn : s.nbits = some 0
  · rw [mapFree_of_no_bits (s := mapFree c f s) hn, mapFree_of_no_bits hn, mapFree_of_no_bits hn]
    rfl
  · rw [mapFree_of_bits (s := mapFree c f s) hn, mapFree_of_bits hn, mapFree_of_bits hn]
    rfl

/-- The answers differ by `mapFree` at most. -/
def Alike (o o' : Host.Outcome State Fault Refusal) : Prop := ∃ c f, o' = mapNext (mapFree c f) o

theorem alike_next {t t' : State} {c : Nat} {f : Option Byte} (h : t' = mapFree c f t) : Alike (.next t) (.next t') :=
  ⟨c, f, congrArg Host.Outcome.next h⟩

theorem alike_setFreeCount (c : Nat) (o : Host.Outcome State Fault Refusal) : Alike o (mapNext (setFreeCount c) o) := by
  cases o with
  | next t => exact alike_next (mapFree_flags c t).symm
  | fault x | refused x => exact ⟨c, none, rfl⟩

theorem Alike.refl (o : Host.Outcome State Fault Refusal) : Alike o o := by
  cases o with
  | next t => exact alike_next (mapFree_flags t.freeCount t).symm
  | fault x | refused x => exact ⟨0, none, rfl⟩

theorem Alike.trans {o o' o'' : Host.Outcome State Fault Refusal} (h : Alike o o') (h' : Alike o' o'') : Alike o o'' := by
  obtain ⟨c, f, rfl⟩ := h
  obtain ⟨c', f', rfl⟩ := h'
  cases o with
  | next t => exact alike_next (mapFree_mapFree c c' f f' t)
  | fault x | refused x => exact ⟨c', f', rfl⟩

/-- An LZ.STEP that finds no control bit left does not read FLAGS (44_lz_stream R306). -/
theorem fetchLz_setFlags {s : State} (hn : s.nbits = some 0) (f : Option Byte) : fetchLz (setFlags f s) = fetchLz s := by
  simp only [fetchLz, setFlags, hn, need_some, res_ok_bind, if_true]

/-- It loads them with a control byte, unless it enters an error. -/
theorem execTwo_setFlags {s : State} {ip : Nat} (hip : s.ip = some ip) (hn : s.nbits = some 0) (f : Option Byte) (c : Byte) (i : Instr) :
    Alike (execTwo (.lzCtrl c) i s) (execTwo (.lzCtrl c) i (setFlags f s)) := by
  have hctrl : exec (.lzCtrl c) (setFlags f s) = exec (.lzCtrl c) s :=
    (controlByteLoads c (setFlags f s) ip hip).trans (controlByteLoads c s ip hip).symm
  unfold execTwo
  rw [hctrl]
  cases exec (.lzCtrl c) s with
  | fault x | refused x => exact Alike.refl _
  | next u =>
    dsimp only
    cases exec i u with
    | fault x | refused x => exact Alike.refl _
    | next t =>
      by_cases herr : t.phase = .error
      · simp only [if_pos herr]
        exact alike_next (mapFree_of_no_bits (s := abortTo s t) hn s.freeCount f).symm
      · simp only [if_neg herr]
        exact Alike.refl _

/-- A step of the loop that finds no control bit left loads a control byte, and FLAGS with it, or enters an error. -/
theorem step_loop_setFlags {s : State} (hp : s.phase = .lz) (hs : s.seq = .loop) (hgo : ∀ l, ¬LzComplete s l) (hn : s.nbits = some 0)
    (f : Option Byte) : Alike (step s) (step (setFlags f s)) := by
  have hfetch' : fetch (setFlags f s) = fetch s := by
    rw [fetch_loop hp hs, fetch_loop (s := setFlags f s) hp hs, fetchLz_setFlags hn]
  obtain ⟨todo, hfetch, hstep⟩ | ⟨e, hfetch, hstep⟩ | ⟨x, hfetch, hstep⟩ := step_cases s <;> rw [hstep]
  · rw [step_of_fetch (hfetch'.trans hfetch)]
    obtain ⟨out, size, hout, hsize, ⟨hfull, -⟩ | ⟨-, inp, ip, n, -, hip, hn', ⟨-, c, i, -, hi, rfl⟩ | ⟨hpos, -⟩⟩⟩ :=
      fetchLz_eq_ok.1 ((fetch_loop hp hs).symm.trans hfetch)
    · exact absurd (.inr ⟨hs, hout, size, hsize, hfull⟩) (hgo out)
    · exact execTwo_setFlags hip hn f c i
    · exact absurd (Option.some.inj (hn'.symm.trans hn)) hpos
  · rw [step_of_fetch_raise (hfetch'.trans hfetch)]
    exact alike_next (mapFree_of_no_bits (s := raiseError e s) hn s.freeCount f).symm
  · simp only [step, advance, hfetch', hfetch, settle_faulted]
    exact Alike.refl _

/-- A step of the loop that does not leave it: with control bits left both runs have the same FLAGS. -/
theorem step_loop_alike {s : State} (hp : s.phase = .lz) (hs : s.seq = .loop) (hgo : ∀ l, ¬LzComplete s l) (c : Nat) (f : Option Byte) :
    Alike (step s) (step (mapFree c f s)) := by
  have hcount : Alike (step s) (step (setFreeCount c s)) := by
    rw [setFreeCount, step_loop_mapHost hp hs hgo]
    exact alike_setFreeCount c (step s)
  by_cases hn : s.nbits = some 0
  · rw [mapFree_of_no_bits hn]
    exact hcount.trans (step_loop_setFlags (s := setFreeCount c s) hp hs hgo hn f)
  · rwa [mapFree_of_bits hn]

/-- LZ.DETECT on a stream, where the two runs take different free values. -/
theorem step_detect_alike {s : State} (hp : s.phase = .lz) (hs : s.seq = .first) (hgo : ∀ l, ¬LzComplete s l) (c : Nat) (f : Option Byte) :
    Alike (step s) (step (mapFree c f s)) := by
  obtain ⟨r, hr⟩ := lzDetectStep_of_not_complete hs hgo
  rw [step_of_unit hp hs rfl, step_of_unit (s := mapFree c f s) hp hs rfl]
  show Alike (settle s (lzDetectStep s)) (settle _ (lzDetectStep (mapFree c f s)))
  rw [hr s rfl rfl, hr (mapFree c f s) rfl rfl]
  rcases r with (e | x) | size
  · exact alike_next (c := c) (f := f) rfl
  · exact Alike.refl _
  · exact alike_next (mapFree_of_no_bits (s := lzInit size s) rfl (c + 1) (some (Config.freeFlags c))).symm

theorem mapFree_eq_mapLz (c : Nat) (f : Option Byte) :
    mapFree c f = mapLz id fun x => { x with freeCount := c, flags := if x.nbits = some 0 then f else x.flags } := rfl

theorem step_lz_alike {s : State} (hp : s.phase = .lz) (c : Nat) (f : Option Byte) : Alike (step s) (step (mapFree c f s)) := by
  by_cases hdone : ∃ l, LzComplete s l
  · obtain ⟨l, hl⟩ := hdone
    rw [mapFree_eq_mapLz]
    exact ⟨c, f, step_mapLz_of_lzComplete hp hl hl⟩
  · cases hs : s.seq with
    | first => exact step_detect_alike hp hs (not_exists.1 hdone) c f
    | loop => exact step_loop_alike hp hs (not_exists.1 hdone) c f
    | complete =>
      have hb : busyPhase s.phase = true := by rw [hp]; rfl
      rw [step_complete hb hs, step_complete (s := mapFree c f s) hb hs]
      exact alike_next (c := c) (f := f) rfl

/-- Every step of an operation, and the waiting after it. -/
theorem step_alike {s : State} (hreq : s.requests = []) (c : Nat) (f : Option Byte) : Alike (step s) (step (mapFree c f s)) := by
  cases hb : busyPhase s.phase with
  | false =>
    rw [step_wait hb hreq, step_wait (s := mapFree c f s) hb hreq]
    exact alike_next (c := c) (f := f) rfl
  | true =>
    by_cases hp : s.phase = .lz
    · exact step_lz_alike hp c f
    · rw [mapFree_eq_mapLz]
      exact ⟨c, f, step_mapLz hb hp _ _⟩

/-- The two runs differ by `mapFree` at every number of steps. -/
theorem run_mapFree {s : State} (hlive : Live s) (hreq : s.requests = []) (k : Nat) (c : Nat) (f : Option Byte) :
    ∃ t c' f', Host.Core.run core k s = .next t ∧ Host.Core.run core k (mapFree c f s) = .next (mapFree c' f' t) := by
  induction k generalizing s c f with
  | zero => exact ⟨s, c, f, rfl, rfl⟩
  | succ k ih =>
    obtain ⟨u, hstep, hu⟩ := step_live hlive
    obtain ⟨c', f', hstep'⟩ := step_alike hreq c f
    rw [hstep] at hstep'
    rw [run_succ_of_step hstep, run_succ_of_step hstep']
    exact ih hu (step_no_requests hreq hstep) c' f'

theorem started_live {s : State} (hfree : s.status.state ≠ .busy) {r : Request} {op : OpCode}
    (hop : decodeRequest r = some (opInstr r.inp r.hb op)) : Live (started r.inp r.hb s op) := by
  obtain ⟨t, ht, hlive⟩ := exec_request_live hfree hop
  cases (exec_opInstr hfree r.inp r.hb op).symm.trans ht
  exact hlive

/-- An operation starts in the same state whatever was before it, but for the number of free values taken (10_state R31). -/
theorem started_eq_mapFree {s s' : State} (hparams : s'.params = s.params) (hreq : s'.requests = s.requests) (inp : List Byte) (hb : Word)
    (op : OpCode) : started inp hb s' op = mapFree s'.freeCount none (started inp hb s op) := by
  cases op <;> simp only [started, start, hparams, hreq] <;> rfl

/-- Settles O59: the two operations start alike (`started_eq_mapFree`) and run alike (`run_mapFree`), and `mapFree` changes no response. -/
theorem operationsAreDeterministic : Obligations.OperationsAreDeterministic := by
  unfold Obligations.OperationsAreDeterministic
  intro s s' r hparams hreq hreq' hlegal hphase hphase' hfree hfree' k hk
  obtain ⟨op, hop, -⟩ := decodeRequest_of_legal hlegal
  obtain ⟨k, rfl⟩ := Nat.exists_eq_add_one_of_ne_zero hk.ne'
  have hstart := started_eq_mapFree (s := { s with requests := [] }) (s' := { s' with requests := [] }) hparams.symm rfl r.inp r.hb op
  rw [run_succ_of_step (step_request hreq hphase hfree hop), run_succ_of_step (step_request hreq' hphase' hfree' hop), hstart]
  obtain ⟨t, c, f, hrun, hrun'⟩ := run_mapFree (started_live (s := { s with requests := [] }) hfree hop) (by cases op <;> rfl) k _ none
  exact ⟨t, _, hrun, hrun', rfl, rfl⟩

end Sys2Proof.Machine

namespace Sys2Proof.Machine

/-! ## Where an operation ends -/

/-- The run from `s` reaches `t`, outside the operation. -/
def EndsIn (s t : State) : Prop := busyPhase t.phase = false ∧ ∃ k, Host.Core.run core k s = .next t

theorem run_succ_eq_next {s t : State} {k : Nat} :
    Host.Core.run core (k + 1) s = .next t ↔ ∃ u, step s = .next u ∧ Host.Core.run core k u = .next t := by
  constructor
  · intro h
    cases hstep : step s with
    | next u => exact ⟨u, rfl, (run_succ_of_step hstep k).symm.trans h⟩
    | fault x =>
      have hcore : core.step s = .fault x := hstep
      simp only [Host.Core.run, hcore] at h
      cases h
    | refused x =>
      have hcore : core.step s = .refused x := hstep
      simp only [Host.Core.run, hcore] at h
      cases h
  · rintro ⟨u, hstep, hrun⟩
    exact (run_succ_of_step hstep k).trans hrun

/-- A run goes on from where its first steps led. -/
theorem run_add {s u : State} {n : Nat} (h : Host.Core.run core n s = .next u) (k : Nat) :
    Host.Core.run core (n + k) s = Host.Core.run core k u := by
  induction n generalizing s with
  | zero =>
    cases h
    rw [Nat.zero_add]
  | succ n ih =>
    obtain ⟨v, hstep, hrun⟩ := run_succ_eq_next.1 h
    rw [Nat.succ_add, run_succ_of_step hstep, ih hrun]

theorem run_no_requests {s t : State} {k : Nat} (hreq : s.requests = []) (h : Host.Core.run core k s = .next t) : t.requests = [] := by
  induction k generalizing s with
  | zero =>
    cases h
    exact hreq
  | succ k ih =>
    obtain ⟨u, hstep, hrun⟩ := run_succ_eq_next.1 h
    exact ih (step_no_requests hreq hstep) hrun

/-- After its end the machine waits. -/
theorem run_wait {s : State} (hb : busyPhase s.phase = false) (hreq : s.requests = []) (k : Nat) : Host.Core.run core k s = .next s := by
  induction k with
  | zero => rfl
  | succ k ih => rw [run_succ_of_step (step_wait hb hreq), ih]

theorem EndsIn.of_run {s t u : State} {n : Nat} (h : EndsIn s t) (hreq : s.requests = []) (hrun : Host.Core.run core n s = .next u) :
    EndsIn u t := by
  obtain ⟨hb, k, hk⟩ := h
  refine ⟨hb, k, ?_⟩
  rw [← run_add hrun, Nat.add_comm, run_add hk, run_wait hb (run_no_requests hreq hk)]

theorem EndsIn.of_step {s t u : State} (h : EndsIn s t) (hreq : s.requests = []) (hstep : step s = .next u) : EndsIn u t :=
  h.of_run hreq (run_succ_of_step hstep 0)

theorem EndsIn.eq_of_free {s t : State} (h : EndsIn s t) (hb : busyPhase s.phase = false) (hreq : s.requests = []) : t = s := by
  obtain ⟨-, k, hk⟩ := h
  cases (run_wait hb hreq k).symm.trans hk
  rfl

/-- An operation has one end. -/
theorem EndsIn.unique {s t t' : State} (h : EndsIn s t) (h' : EndsIn s t') (hreq : s.requests = []) : t = t' := by
  obtain ⟨hb, k, hk⟩ := h'
  exact (h.of_run hreq hk).eq_of_free hb (run_no_requests hreq hk)

/-- The end of an operation whose request is the one that waits. -/
theorem EndsIn.of_request {s t : State} {r : Request} {op : OpCode} {k : Nat} (hphase : busyPhase s.phase = false)
    (hfree : s.status.state ≠ .busy) (hop : decodeRequest r = some (opInstr r.inp r.hb op)) (hk : 0 < k)
    (hrun : Host.Core.run core k { s with requests := [r] } = .next t) (ht : busyPhase t.phase = false) :
    EndsIn (started r.inp r.hb { s with requests := [] } op) t := by
  obtain ⟨k, rfl⟩ := Nat.exists_eq_add_one_of_ne_zero hk.ne'
  rw [run_succ_of_step (step_request (s := { s with requests := [r] }) rfl hphase hfree hop)] at hrun
  exact ⟨ht, k, hrun⟩

/-! ## DECODE of a stream

DECODE goes through phase LZ as DECOMPRESS does; from the header on nothing depends on how the work buffer came about. -/

/-- The same state of a DECODE. -/
def asDecode : State → State := mapHost id (fun _ => some .decode) id

/-- Where a DECODE is when the DECOMPRESS from the same state has ended in `t`: at the header, with the result as its work buffer, or in the same
error. -/
def DecodeFollows (s t : State) : Prop :=
  ∃ n, (∃ l x, t.phase = .done ∧ t.resBytes = some l ∧
      Host.Core.run core n (asDecode s) = .next (enterPhase .hdr (setLzRegisters x { asDecode s with wb := some l }))) ∨
    (t.phase = .error ∧ Host.Core.run core n (asDecode s) = .next (asDecode t))

/-- The result is complete: both operations leave LZ. -/
theorem decodeFollows_of_lzComplete {s t : State} {l : List Byte} (hp : s.phase = .lz) (hop : s.op = some .decompress)
    (hreq : s.requests = []) (hl : LzComplete s l) (h : EndsIn s t) : DecodeFollows s t := by
  have hdecompress := (leavingLzDeliversTheResult s l hp hl).1 hop
  have hdecode := (leavingLzDeliversTheResult (asDecode s) l hp hl).2 rfl
  have hdone := step_complete (s := { s with resBytes := some l, seq := .complete }) (by rw [hp]; rfl) rfl
  obtain rfl := ((h.of_step hreq hdecompress).of_step hreq hdone).eq_of_free rfl hreq
  exact ⟨1, .inl ⟨l, lzRegisters s, rfl, rfl, run_succ_of_step hdecode 0⟩⟩

/-- The two operations take the same step inside the loop. -/
theorem decodeFollows_of_loop {s t u : State} (hstep : step (asDecode s) = .next (asDecode u)) (hu : ChangesLzOnly { s with seq := .loop } u)
    (h : DecodeFollows u t) : DecodeFollows s t := by
  obtain ⟨n, ⟨l, x, ht, hl, hrun⟩ | ⟨ht, hrun⟩⟩ := h
  · refine ⟨n + 1, .inl ⟨l, x, ht, hl, ?_⟩⟩
    rw [run_succ_of_step hstep, hrun, ← hu]
    rfl
  · exact ⟨n + 1, .inr ⟨ht, (run_succ_of_step hstep n).trans hrun⟩⟩

theorem decodeFollows {s t : State} (hp : s.phase = .lz) (hs : s.seq ≠ .complete) (hop : s.op = some .decompress) (hreq : s.requests = [])
    (h : EndsIn s t) : DecodeFollows s t := by
  obtain ⟨hend, k, hk⟩ := h
  induction k generalizing s with
  | zero =>
    cases hk
    rw [hp] at hend
    cases hend
  | succ k ih =>
    by_cases hdone : ∃ l, LzComplete s l
    · obtain ⟨l, hl⟩ := hdone
      exact decodeFollows_of_lzComplete hp hop hreq hl ⟨hend, k + 1, hk⟩
    · obtain ⟨u, hstep, hrun⟩ := run_succ_eq_next.1 hk
      have hdecode : step (asDecode s) = .next (asDecode u) := by
        rw [asDecode, step_lz_mapHost hp hs (not_exists.1 hdone), hstep]
        rfl
      obtain ⟨l, hl, -⟩ | ⟨e, rfl⟩ | ⟨honly, -⟩ := lzStepsTo_of_step hp hs hstep
      · exact absurd ⟨l, hl⟩ hdone
      · cases (run_wait (s := raiseError e s) rfl hreq k).symm.trans hrun
        exact ⟨1, .inr ⟨rfl, run_succ_of_step hdecode 0⟩⟩
      · refine decodeFollows_of_loop hdecode honly (ih ?_ ?_ ?_ ?_ hrun) <;> rw [← honly]
        · exact hp
        · exact nofun
        · exact hop
        · exact hreq

theorem ne_lz_of_phaseMayFollow {op : Option OpCode} {p q : Phase} (h : phaseMayFollow op p q = true) (hp : p ≠ .lz) : q ≠ .lz := by
  rintro rfl
  cases p <;> simp_all [phaseMayFollow]

/-- From the header on a run does not depend on the LZ registers. -/
theorem run_setLzRegisters {s t : State} (hlive : Live s) (hp : s.phase ≠ .lz) (hreq : s.requests = []) (x : LzRegisters) {k : Nat}
    (h : Host.Core.run core k s = .next t) : Host.Core.run core k (setLzRegisters x s) = .next (setLzRegisters x t) := by
  induction k generalizing s with
  | zero =>
    cases h
    rfl
  | succ k ih =>
    obtain ⟨u, hstep, hrun⟩ := run_succ_eq_next.1 h
    cases hb : busyPhase s.phase with
    | false =>
      cases (step_wait hb hreq).symm.trans hstep
      rw [run_succ_of_step (step_wait (s := setLzRegisters x s) hb hreq)]
      exact ih hlive hp hreq hrun
    | true =>
      have hstep' : step (setLzRegisters x s) = .next (setLzRegisters x u) :=
        (step_mapLz hb hp id fun _ => x).trans (congrArg (mapNext (setLzRegisters x)) hstep)
      obtain ⟨v, hv, hu⟩ := step_live hlive
      cases hstep.symm.trans hv
      obtain ⟨hfollow, -⟩ := hlive.stepsOn hb hstep
      rw [run_succ_of_step hstep']
      exact ih hu (ne_lz_of_phaseMayFollow hfollow hp) (step_no_requests hreq hstep) hrun

/-- Two operations that are past LZ and differ in the LZ registers alone end with the same response. -/
theorem response_eq_of_setLzRegisters {s t t' : State} (hlive : Live s) (hp : s.phase ≠ .lz) (hreq : s.requests = []) {x : LzRegisters}
    (h : EndsIn (setLzRegisters x s) t) (h' : EndsIn s t') : response t = response t' := by
  obtain ⟨hb, k, hk⟩ := h'
  have hend : EndsIn (setLzRegisters x s) (setLzRegisters x t') := ⟨hb, k, run_setLzRegisters hlive hp hreq x hk⟩
  rw [h.unique hend hreq]
  rfl

/-- Settles O60: DECODE of the stream follows DECOMPRESS (`decodeFollows`), DECODE of the result passes it through, and the two meet at the header. -/
theorem decodeComposesWithDecompress : Obligations.DecodeComposesWithDecompress := by
  unfold Obligations.DecodeComposesWithDecompress
  intro s t inp hb k hphase hfree hk hrun
  have hfollows : busyPhase t.phase = false → DecodeFollows (started inp hb { s with requests := [] } .decompress) t := fun ht =>
    decodeFollows rfl nofun rfl rfl (.of_request (r := ⟨1, inp, hb⟩) hphase hfree rfl hk hrun ht)
  have hdecode (l : List Byte) {k' : Nat} {t' : State} := EndsIn.of_request (t := t') (r := ⟨3, l, hb⟩) (op := .decode) (k := k') hphase hfree rfl
  refine ⟨fun l hdone hl htag k₁ k₂ t₁ t₂ hk₁ hk₂ hrun₁ hrun₂ hend₁ hend₂ => ?_, fun herr k' t' hk' hrun' hend' => ?_⟩
  · obtain ⟨n, ⟨l', x, -, hl', hstream⟩ | ⟨herr, -⟩⟩ := hfollows (by rw [hdone]; rfl)
    · obtain rfl := Option.some.inj (hl.symm.trans hl')
      have hpass := (leavingLzDeliversTheResult (started l hb { s with requests := [] } .decode) l rfl (.inl ⟨rfl, rfl, htag⟩)).2 rfl
      have hend₁' := (hdecode inp hk₁ hrun₁ hend₁).of_run rfl hstream
      have hend₂' := (hdecode l hk₂ hrun₂ hend₂).of_step rfl hpass
      obtain ⟨w, hw, hlive⟩ := step_live (started_live (s := { s with requests := [] }) (r := ⟨3, l, hb⟩) (op := .decode) hfree rfl)
      cases hpass.symm.trans hw
      exact response_eq_of_setLzRegisters hlive nofun rfl hend₁' hend₂'
    · cases hdone.symm.trans herr
  · have ht : busyPhase t.phase = false := by rw [herr]; rfl
    obtain ⟨n, ⟨-, -, hdone, -⟩ | ⟨-, hstream⟩⟩ := hfollows ht
    · cases hdone.symm.trans herr
    · have hend := (hdecode inp hk' hrun' hend').of_run rfl hstream
      obtain rfl := hend.eq_of_free ht (run_no_requests rfl hstream)
      exact ⟨herr, rfl, rfl⟩

end Sys2Proof.Machine

namespace Sys2Proof.Machine

/-! ## An error is entered from the state the step began in -/

/-- Settles O44: with no request the engine waits (`step_wait`). -/
theorem engineWaitsForTheHost : Obligations.EngineWaitsForTheHost := by
  unfold Obligations.EngineWaitsForTheHost
  exact fun _ => step_wait

/-- The unit that runs in a phase (60_exceptions R372). -/
def unitStage : Phase → Stage
  | .lz => .decompress
  | .hdr => .header
  | .pal => .palette
  | .asm => .block
  | .idle | .done | .error => .none

/-- An error that 60_exceptions R371 lists, attributed to the unit of phase `ph` (R372). -/
def ListedIn (ph : Phase) (e : Err) : Prop := legalError e.code e.stage = true ∧ e.stage = unitStage ph

/-- What the unit of phase `ph` answers stays inside the operation, or is a listed error of its own. -/
structure Precise (ph : Phase) (r : Res State) : Prop where
  ok : ∀ u, r = .ok u → busyPhase u.phase = true
  raised : ∀ e, r = .error (.raised e) → ListedIn ph e

/-- If `t` is an error state, it is the entry of a listed error at `s` (60_exceptions R380). -/
def EntersFrom (s t : State) : Prop := t.phase = .error → ∃ e, ListedIn s.phase e ∧ t = raiseError e s

/-- A settled unit answers an error state only by entering its error. -/
theorem entersFrom_of_precise {s t : State} {ph : Phase} {r : Res State} (hp : s.phase = ph) (hr : Precise ph r)
    (h : settle s r = .next t) : EntersFrom s t := by
  subst hp
  intro herr
  obtain hok | ⟨e, he, rfl⟩ := settle_eq_next.1 h
  · have hbusy := hr.ok t hok
    rw [herr] at hbusy
    cases hbusy
  · exact ⟨e, hr.raised e he, rfl⟩

/-! ### The units -/

section
variable {s : State}

theorem leaveLz_precise (hp : s.phase = .lz) (l : List Byte) : Precise .lz (leaveLz l s) where
  ok u hu := by obtain ⟨-, rfl⟩ | ⟨-, rfl⟩ := leaveLz_eq_ok.1 hu <;> simp [hp, busyPhase]
  raised e he := absurd he (leaveLz_not_raised l s e)

theorem lzDetectStep_precise (hp : s.phase = .lz) : Precise .lz (lzDetectStep s) where
  ok u hu := by
    obtain ⟨inp, -, ⟨-, size, -, rfl⟩ | ⟨-, hleave⟩⟩ := lzDetectStep_eq_ok.1 hu
    · simp [hp, busyPhase]
    · exact (leaveLz_precise hp inp).ok u hleave
  raised e he := by
    obtain ⟨inp, -, -, -, rfl⟩ := lzDetectStep_eq_raised.1 he
    exact ⟨rfl, rfl⟩

theorem lzLitStep_precise (hp : s.phase = .lz) (b : Byte) : Precise .lz (lzLitStep b s) where
  ok u hu := by
    obtain ⟨ip, out, f, n, -, -, -, -, rfl⟩ := lzLitStep_eq_ok.1 hu
    simp [hp, busyPhase]
  raised e he := absurd he (lzLitStep_not_raised b s e)

theorem lzRefStep_precise (hp : s.phase = .lz) (bytes d n : Nat) : Precise .lz (lzRefStep bytes d n s) where
  ok u hu := by
    obtain ⟨ip, out, size, m, f, k, -, -, -, -, -, -, -, rfl⟩ := lzRefStep_eq_ok.1 hu
    simp [hp, busyPhase]
  raised e he := by
    obtain ⟨ip, out, -, -, ⟨-, rfl⟩ | ⟨-, size, -, hover⟩⟩ := lzRefStep_eq_raised.1 he
    · exact ⟨rfl, rfl⟩
    · obtain ⟨-, -, rfl⟩ := overrun_eq_raised.1 hover
      exact ⟨rfl, rfl⟩

theorem hdrParseStep_precise (hp : s.phase = .hdr) : Precise .hdr (hdrParseStep s) where
  ok u hu := by
    obtain ⟨wb, hb, d, -, -, -, -, hleave⟩ := hdrParseStep_eq_ok.1 hu
    obtain ⟨-, rfl⟩ | ⟨-, rfl⟩ := leaveHdr_eq_ok.1 hleave <;> simp [hp, busyPhase]
  raised e he := by
    obtain ⟨wb, hb, -, -, ⟨-, rfl⟩ | ⟨-, raw, -, rfl⟩ | ⟨-, raw, -, rfl⟩⟩ := hdrParseStep_eq_raised.1 he <;>
      exact ⟨rfl, rfl⟩

theorem palDecodeStep_precise : Precise .pal (palDecodeStep s) where
  ok u hu := by
    obtain ⟨d, pal, -, rfl, -⟩ := palDecodeStep_eq_ok.1 hu
    rfl
  raised e he := by
    obtain ⟨d, hb, wb, -, -, -, -, -, -, rfl⟩ := palDecodeStep_eq_raised.1 he
    exact ⟨rfl, rfl⟩

theorem asmStartStep_not_raised (s : State) (e : Err) : asmStartStep s ≠ .error (.raised e) := by
  simp [asmStartStep, res_bind_eq_raised, readDsc_not_raised]

theorem asmStartStep_precise (hp : s.phase = .asm) : Precise .asm (asmStartStep s) where
  ok u hu := by
    obtain ⟨d, -, rfl⟩ := asmStartStep_eq_ok.1 hu
    simp [hp, busyPhase]
  raised e he := absurd he (asmStartStep_not_raised s e)

theorem asmBlockStep_precise (hp : s.phase = .asm) : Precise .asm (asmBlockStep s) where
  ok u hu := by
    obtain ⟨d, g, wb, hb, k, bx, oy, pb, pal, -, -, -, -, -, -, -, -, rfl⟩ := asmBlockStep_eq_ok.1 hu
    simp [afterBlock, hp, busyPhase]
  raised e he := by
    obtain ⟨d, g, wb, hb, k, -, -, rfl⟩ := asmBlockStep_eq_raised.1 he
    exact ⟨rfl, rfl⟩

/-! ### The LZ loop -/

theorem exec_token_entersFrom {p : Params} {lit : Bool} {inp : List Byte} {ip : Nat} {i : Instr} {t : State} (hp : s.phase = .lz)
    (hi : fetchToken p lit inp ip = .ok i) (h : exec i s = .next t) : EntersFrom s t := by
  obtain ⟨b, rfl⟩ | ⟨n, d, rfl, -⟩ | ⟨d, m, rfl⟩ := token_of_fetchToken hi
  · exact entersFrom_of_precise hp (lzLitStep_precise hp b) h
  · exact entersFrom_of_precise hp (lzRefStep_precise hp 2 d.toNat (shortLength n)) h
  · exact entersFrom_of_precise hp (lzRefStep_precise hp 3 d.toNat (longLength m)) h

/-- An error of the token behind a control byte is entered from the state before both (notes/assumptions/12.md). -/
theorem execTwo_token_entersFrom {p : Params} {lit : Bool} {inp : List Byte} {ip ip' : Nat} {c : Byte} {i : Instr} {t : State}
    (hp : s.phase = .lz) (hip : s.ip = some ip') (hi : fetchToken p lit inp ip = .ok i) (h : execTwo (.lzCtrl c) i s = .next t) :
    EntersFrom s t := by
  obtain ⟨u, v, hu, hv, rfl⟩ := execTwo_eq_next.1 h
  cases (controlByteLoads c s ip' hip).symm.trans hu
  split_ifs with hverr
  · intro _
    obtain ⟨e, he, rfl⟩ := exec_token_entersFrom (by exact hp) hi hv hverr
    exact ⟨e, he, rfl⟩
  · exact fun herr => absurd herr hverr

theorem perform_lz_entersFrom {todo : Todo} {t : State} (hp : s.phase = .lz) (hf : fetchLz s = .ok todo) (h : perform todo s = .next t) :
    EntersFrom s t := by
  obtain ⟨out, -, -, -, ⟨-, rfl⟩ | ⟨-, inp, ip, n, -, hip, -, ⟨-, c, i, -, hi, rfl⟩ | ⟨-, f, i, -, hi, rfl⟩⟩⟩ := fetchLz_eq_ok.1 hf
  · exact entersFrom_of_precise hp (leaveLz_precise hp out) h
  · exact execTwo_token_entersFrom hp hip hi h
  · exact exec_token_entersFrom hp hi h

/-- The one error of fetching: LzTruncated (44_lz_stream R307, R312). -/
theorem fetchToken_raised {p : Params} {lit : Bool} {inp : List Byte} {ip : Nat} {e : Err}
    (h : fetchToken p lit inp ip = .error (.raised e)) : ListedIn .lz e := by
  obtain ⟨i, rest, -, hfetch⟩ | ⟨-, hfetch⟩ := fetchToken_cases p lit inp ip <;> cases hfetch.symm.trans h
  exact ⟨rfl, rfl⟩

theorem fetchLz_raised {e : Err} (h : fetchLz s = .error (.raised e)) : ListedIn .lz e := by
  unfold fetchLz at h
  simp only [res_bind_eq_raised, need_not_raised, false_or] at h
  obtain ⟨out, -, size, -, h⟩ := h
  split at h
  · cases h
  simp only [res_bind_eq_raised, need_not_raised, false_or] at h
  obtain ⟨inp, -, ip, -, n, -, h⟩ := h
  split at h
  · split at h
    · obtain h | ⟨i, -, h⟩ := res_bind_eq_raised.1 h
      · exact fetchToken_raised h
      · cases h
    · cases h
      exact ⟨rfl, rfl⟩
  · simp only [res_bind_eq_raised, need_not_raised, false_or] at h
    obtain ⟨f, -, h | ⟨i, -, h⟩⟩ := h
    · exact fetchToken_raised h
    · cases h

end

/-! ### Any step inside an operation -/

theorem fetchUnit_not_raised (s : State) (e : Err) : fetchUnit s ≠ .error (.raised e) := by
  unfold fetchUnit
  split <;> simp [faultWith]

/-- Only the LZ loop fetches what can be missing (44_lz_stream R312). -/
theorem fetch_raised {s : State} {e : Err} (hb : busyPhase s.phase = true) (h : fetch s = .error (.raised e)) : ListedIn s.phase e := by
  by_cases hloop : s.phase = .lz ∧ s.seq = .loop
  · obtain ⟨hp, hs⟩ := hloop
    rw [hp]
    exact fetchLz_raised ((fetch_loop hp hs).symm.trans h)
  · rw [fetch_of_not_loop hb hloop] at h
    split at h
    · cases h
    · exact absurd h (fetchUnit_not_raised s e)

/-- A unit step that the sequencer selects. -/
theorem exec_unit_entersFrom {s t : State} {i : Instr} (hi : decodeSequencer s.phase s.seq = some i) (h : exec i s = .next t) :
    EntersFrom s t := by
  cases hp : s.phase <;> cases hs : s.seq <;> rw [hp, hs] at hi <;> cases hi
  case lz => exact entersFrom_of_precise hp (lzDetectStep_precise hp) h
  case hdr => exact entersFrom_of_precise hp (hdrParseStep_precise hp) h
  case pal => exact entersFrom_of_precise hp palDecodeStep_precise h
  case asm.first => exact entersFrom_of_precise hp (asmStartStep_precise hp) h
  case asm.loop => exact entersFrom_of_precise hp (asmBlockStep_precise hp) h

theorem perform_entersFrom {s t : State} {todo : Todo} (hb : busyPhase s.phase = true) (hf : fetch s = .ok todo)
    (h : perform todo s = .next t) : EntersFrom s t := by
  by_cases hloop : s.phase = .lz ∧ s.seq = .loop
  · obtain ⟨hp, hs⟩ := hloop
    exact perform_lz_entersFrom hp ((fetch_loop hp hs).symm.trans hf) h
  · rw [fetch_of_not_loop hb hloop] at hf
    split at hf
    · cases hf
      cases h
      exact nofun
    · obtain ⟨i, hi, rfl⟩ := fetchUnit_eq_ok.1 hf
      exact exec_unit_entersFrom hi h

/-- Inside an operation a step ends in ERROR only by entering a listed error, of the phase's unit, from the state it began in. -/
theorem step_entersFrom {s t : State} (hb : busyPhase s.phase = true) (h : step s = .next t) : EntersFrom s t := by
  obtain ⟨todo, hfetch, hstep⟩ | ⟨e, he, hstep⟩ | ⟨f, -, hstep⟩ := step_cases s <;> rw [hstep] at h
  · exact perform_entersFrom hb hfetch h
  · cases h
    exact fun _ => ⟨e, fetch_raised hb he, rfl⟩
  · cases h

/-- Settles O43: the error of `step_entersFrom`, whose stage is that of the phase. -/
theorem errorsArePrecise : Obligations.ErrorsArePrecise := by
  unfold Obligations.ErrorsArePrecise
  intro s t hb h herr
  obtain ⟨⟨c, g, a⟩, ⟨hlegal, hstage⟩, rfl⟩ := step_entersFrom hb h herr
  have hunit {ph : Phase} (hp : s.phase = ph) : g = unitStage ph := hp ▸ hstage
  exact ⟨c, g, a, hlegal, hunit, hunit, hunit, hunit, rfl⟩

end Sys2Proof.Machine

namespace Sys2Proof.Machine

/-! ## The parameters and the operation's operands

Each unit that runs inside an operation keeps them in its result, and an error keeps them whatever the unit. -/

/-- What a request and the parameters give an operation to work on: the parameters, OP, HB and IN (00_scope R11, 10_state R34, R40). -/
def operands (s : State) : Params × Option OpCode × Option Word × Option (List Byte) := (s.params, s.op, s.hb, s.inp)

/-- An error keeps the operands (notes/assumptions/17.md), so a unit whose result keeps them keeps them whatever it answers. -/
theorem settle_operands {s t : State} {r : Res State} (hr : ∀ u, r = .ok u → operands u = operands s) (h : settle s r = .next t) :
    operands t = operands s := by
  obtain hok | ⟨e, -, rfl⟩ := settle_eq_next.1 h
  · exact hr t hok
  · rfl

theorem leaveLz_operands {l : List Byte} {s t : State} (h : leaveLz l s = .ok t) : operands t = operands s := by
  obtain ⟨-, rfl⟩ | ⟨-, rfl⟩ := leaveLz_eq_ok.1 h <;> rfl

theorem lzDetectStep_operands {s t : State} (h : lzDetectStep s = .ok t) : operands t = operands s := by
  obtain ⟨inp, -, ⟨-, size, -, rfl⟩ | ⟨-, hleave⟩⟩ := lzDetectStep_eq_ok.1 h
  · rfl
  · exact leaveLz_operands hleave

theorem lzCtrlStep_operands {f : Byte} {s t : State} (h : lzCtrlStep f s = .ok t) : operands t = operands s := by
  obtain ⟨ip, -, rfl⟩ := lzCtrlStep_eq_ok.1 h
  rfl

theorem lzLitStep_operands {b : Byte} {s t : State} (h : lzLitStep b s = .ok t) : operands t = operands s := by
  obtain ⟨ip, out, f, n, -, -, -, -, rfl⟩ := lzLitStep_eq_ok.1 h
  rfl

theorem lzRefStep_operands {bytes d n : Nat} {s t : State} (h : lzRefStep bytes d n s = .ok t) : operands t = operands s := by
  obtain ⟨ip, out, size, m, f, k, -, -, -, -, -, -, -, rfl⟩ := lzRefStep_eq_ok.1 h
  rfl

theorem hdrParseStep_operands {s t : State} (h : hdrParseStep s = .ok t) : operands t = operands s := by
  obtain ⟨wb, hb, d, -, -, -, -, hleave⟩ := hdrParseStep_eq_ok.1 h
  obtain ⟨-, rfl⟩ | ⟨-, rfl⟩ := leaveHdr_eq_ok.1 hleave <;> rfl

theorem palDecodeStep_operands {s t : State} (h : palDecodeStep s = .ok t) : operands t = operands s := by
  obtain ⟨d, pal, -, rfl, -⟩ := palDecodeStep_eq_ok.1 h
  rfl

theorem asmNext_operands (finished : Bool) (d : Dsc) (pb : PixBuf) (s : State) : operands (asmNext finished d pb s) = operands s := by
  cases finished <;> rfl

theorem asmStartStep_operands {s t : State} (h : asmStartStep s = .ok t) : operands t = operands s := by
  obtain ⟨d, -, rfl⟩ := asmStartStep_eq_ok.1 h
  exact asmNext_operands ..

theorem asmBlockStep_operands {s t : State} (h : asmBlockStep s = .ok t) : operands t = operands s := by
  obtain ⟨d, g, wb, hb, k, bx, oy, pb, pal, -, -, -, -, -, -, -, -, rfl⟩ := asmBlockStep_eq_ok.1 h
  exact asmNext_operands ..

/-- A unit step that the sequencer selects. -/
theorem exec_unit_operands {ph : Phase} {sq : Seq} {i : Instr} {s t : State} (hi : decodeSequencer ph sq = some i)
    (h : exec i s = .next t) : operands t = operands s := by
  cases ph <;> cases sq <;> cases hi
  case lz => exact settle_operands (fun _ => lzDetectStep_operands) h
  case hdr => exact settle_operands (fun _ => hdrParseStep_operands) h
  case pal => exact settle_operands (fun _ => palDecodeStep_operands) h
  case asm.first => exact settle_operands (fun _ => asmStartStep_operands) h
  case asm.loop => exact settle_operands (fun _ => asmBlockStep_operands) h

theorem exec_token_operands {p : Params} {lit : Bool} {inp : List Byte} {ip : Nat} {i : Instr} {s t : State}
    (hi : fetchToken p lit inp ip = .ok i) (h : exec i s = .next t) : operands t = operands s := by
  obtain ⟨b, rfl⟩ | ⟨n, d, rfl, -⟩ | ⟨d, m, rfl⟩ := token_of_fetchToken hi
  · exact settle_operands (fun _ => lzLitStep_operands) h
  · exact settle_operands (fun _ => lzRefStep_operands) h
  · exact settle_operands (fun _ => lzRefStep_operands) h

/-- An error of the token behind a control byte is entered from the state before both (notes/assumptions/12.md). -/
theorem execTwo_token_operands {p : Params} {lit : Bool} {inp : List Byte} {ip : Nat} {c : Byte} {i : Instr} {s t : State}
    (hi : fetchToken p lit inp ip = .ok i) (h : execTwo (.lzCtrl c) i s = .next t) : operands t = operands s := by
  obtain ⟨u, v, hu, hv, rfl⟩ := execTwo_eq_next.1 h
  split
  · rfl
  · exact (exec_token_operands hi hv).trans (settle_operands (fun _ => lzCtrlStep_operands) hu)

theorem perform_lz_operands {todo : Todo} {s t : State} (hf : fetchLz s = .ok todo) (h : perform todo s = .next t) :
    operands t = operands s := by
  obtain ⟨out, -, -, -, ⟨-, rfl⟩ | ⟨-, inp, ip, n, -, -, -, ⟨-, c, i, -, hi, rfl⟩ | ⟨-, f, i, -, hi, rfl⟩⟩⟩ := fetchLz_eq_ok.1 hf
  · exact settle_operands (fun _ => leaveLz_operands) h
  · exact execTwo_token_operands hi h
  · exact exec_token_operands hi h

theorem perform_operands {todo : Todo} {s t : State} (hb : busyPhase s.phase = true) (hf : fetch s = .ok todo)
    (h : perform todo s = .next t) : operands t = operands s := by
  by_cases hloop : s.phase = .lz ∧ s.seq = .loop
  · obtain ⟨hp, hs⟩ := hloop
    exact perform_lz_operands ((fetch_loop hp hs).symm.trans hf) h
  · rw [fetch_of_not_loop hb hloop] at hf
    split at hf
    · cases hf
      cases h
      rfl
    · obtain ⟨i, hi, rfl⟩ := fetchUnit_eq_ok.1 hf
      exact exec_unit_operands hi h

/-- Inside an operation no step writes the operands, the last one included (70_reset R415). -/
theorem step_operands {s t : State} (hb : busyPhase s.phase = true) (h : step s = .next t) : operands t = operands s := by
  obtain ⟨todo, hfetch, hstep⟩ | ⟨e, -, hstep⟩ | ⟨f, -, hstep⟩ := step_cases s <;> rw [hstep] at h
  · exact perform_operands hb hfetch h
  · cases h
    rfl
  · cases h

theorem startWhenFree_eq_next {s t u : State} : startWhenFree s u = .next t ↔ s.status.state ≠ .busy ∧ t = u := by
  unfold startWhenFree
  split <;> simp_all [eq_comm]

/-- An operation's start writes OP, HB and IN, but not the parameters (45_operations R341, 70_reset R415). -/
theorem exec_request_params {r : Request} {i : Instr} {s t : State} (hi : decodeRequest r = some i) (h : exec i s = .next t) :
    t.params = s.params := by
  obtain rfl | rfl | rfl := decodeRequest_eq_some hi <;> obtain ⟨-, rfl⟩ := startWhenFree_eq_next.1 h <;> rfl

theorem step_params {s t : State} (h : step s = .next t) : t.params = s.params := by
  cases hb : busyPhase s.phase with
  | true => exact congrArg Prod.fst (step_operands hb h)
  | false =>
    have hfetch := fetch_outside hb
    obtain ⟨-, hr⟩ | ⟨r, rest, -, ⟨-, hr⟩ | ⟨i, hi, hr⟩⟩ := fetchRequest_cases s <;> rw [step_of_fetch (hfetch.trans hr)] at h
    · cases h
      rfl
    · cases h
      rfl
    · exact exec_request_params (s := { s with requests := rest }) hi h

/-- Settles O53: `step_params` for the parameters, `step_operands` for the three registers. -/
theorem parametersAndInputsAreReadOnly : Obligations.ParametersAndInputsAreReadOnly := by
  unfold Obligations.ParametersAndInputsAreReadOnly
  refine ⟨fun s t => step_params, fun s t hb h => ?_⟩
  have hkeep := step_operands hb h
  simp only [operands, Prod.mk.injEq] at hkeep
  obtain ⟨-, hop, hhb, hinp⟩ := hkeep
  exact ⟨hop, hhb, hinp⟩

end Sys2Proof.Machine

namespace Sys2Proof.Machine

/-! ## The host's reads of the result registers -/

section
variable {α : Type} {r : Reg} {v : Option α} {s : State}

theorem hostResult_of_not_done (h : s.status.state ≠ .done) : hostResult r v s = .error (.noValue r) := if_neg h

theorem hostResult_of_value {a : α} (h : s.status.state = .done) (hv : v = some a) : hostResult r v s = .ok a := by
  rw [hv]
  exact if_pos h

/-- A register that the operation has not written gives no value, DONE or not (10_state R77). -/
theorem hostResult_of_no_value (hv : v = none) : hostResult r v s = .error (.noValue r) := by
  rw [hv]
  unfold hostResult
  split <;> rfl

end

/-- Settles O45: the four reads are one `hostResult`, in its three cases. -/
theorem hostReadsResultsOnlyWhenDone : Obligations.HostReadsResultsOnlyWhenDone := by
  unfold Obligations.HostReadsResultsOnlyWhenDone
  refine ⟨fun s h => ?_, fun s l d pb n h => ?_, fun s _ => ?_⟩
  · exact ⟨hostResult_of_not_done h, hostResult_of_not_done h, hostResult_of_not_done h, hostResult_of_not_done h⟩
  · exact ⟨hostResult_of_value h, hostResult_of_value h, hostResult_of_value h, hostResult_of_value h⟩
  · exact ⟨hostResult_of_no_value, hostResult_of_no_value, hostResult_of_no_value, hostResult_of_no_value⟩

end Sys2Proof.Machine

namespace Sys2Proof.Machine

/-! ## The state after reset -/

/-- Settles O46: the fields as `State.reset` lists them. -/
theorem resetState : Obligations.ResetState := by
  unfold Obligations.ResetState noResults
  decide

/-- Settles O50: STATUS names no error, IDLE has no register to read, and no buffer holds a value. -/
theorem resetMeetsTheInvariant : Obligations.ResetMeetsTheInvariant := by
  unfold Obligations.ResetMeetsTheInvariant
  have hstatus : StatusWf State.reset := ⟨rfl, fun _ => ⟨rfl, rfl, rfl⟩, nofun⟩
  exact ⟨hstatus, trivial, reset_memory_wf, rfl⟩

end Sys2Proof.Machine

namespace Sys2Proof.Machine

/-! ## A step runs what is decoded -/

theorem fetchToken_of_decode {p : Params} {lit : Bool} {inp rest : List Byte} {ip : Nat} {i : Instr}
    (h : decode p (.token lit) (inp.drop ip) = some (i, rest)) : fetchToken p lit inp ip = .ok i := by
  simp [fetchToken, h]

/-- A control byte is the byte at IP, and what is left begins right behind it (30_encoding R126). -/
theorem controlByte_of_decode {p : Params} {inp mid : List Byte} {ip : Nat} {f : Byte}
    (h : decode p .control (inp.drop ip) = some (.lzCtrl f, mid)) : inp[ip]? = some f ∧ inp.drop (ip + 1) = mid := by
  rw [← List.head?_drop, ← List.tail_drop]
  cases hbytes : inp.drop ip with
  | nil => simp [hbytes, decode] at h
  | cons b bytes => simpa [hbytes, decode] using h

theorem step_of_decodeRequest {s : State} {r : Request} {rest : List Request} {i : Instr} (hb : busyPhase s.phase = false)
    (hreq : s.requests = r :: rest) (hi : decodeRequest r = some i) : step s = exec i { s with requests := rest } := by
  have hfetch : fetchRequest s = .ok (.request i rest) := by simp [fetchRequest, hreq, decode, hi]
  exact step_of_fetch ((fetch_outside hb).trans hfetch)

/-- An LZ.STEP does what it finds to do (44_lz_stream R306). -/
theorem step_of_fetchLz {s : State} {todo : Todo} (hp : s.phase = .lz) (hs : s.seq = .loop) (h : fetchLz s = .ok todo) :
    step s = perform todo s :=
  step_of_fetch ((fetch_loop hp hs).trans h)

/-- The control byte's load, and then the token from the state it leaves; an error of the token is entered from `s` (notes/assumptions/12.md). -/
theorem execTwo_lzCtrl {s t : State} {f : Byte} {i : Instr} {ip : Nat} (hip : s.ip = some ip)
    (h : exec i { s with flags := some f, nbits := some 8, ip := some (ip + 1) } = .next t) :
    execTwo (.lzCtrl f) i s = .next (if t.phase = .error then abortTo s t else t) :=
  execTwo_eq_next.2 ⟨_, t, controlByteLoads f s ip hip, h, rfl⟩

/-- Settles O49: each clause names what is fetched, a unit, a request, a token, or a control byte and a token, and the step performs it. -/
theorem stepRunsTheDecodedInstruction : Obligations.StepRunsTheDecodedInstruction := by
  unfold Obligations.StepRunsTheDecodedInstruction
  refine ⟨fun s i hi => step_of_unit rfl rfl hi, fun s r rest i => step_of_decodeRequest, ?_⟩
  intro s inp out size ip n hp hs hinp hout hsize hleft hip hn
  refine ⟨fun f i rest hbits hf hi => ?_, fun f i mid rest t hzero hf hi h => ?_⟩
  · have hfetch : fetchLz s = .ok (.one i) := fetchLz_eq_ok.2 ⟨out, size, hout, hsize,
      .inr ⟨hleft, inp, ip, n, hinp, hip, hn, .inr ⟨hbits, f, i, hf, fetchToken_of_decode hi, rfl⟩⟩⟩
    exact step_of_fetchLz hp hs hfetch
  · obtain ⟨hget, rfl⟩ := controlByte_of_decode hf
    have hfetch : fetchLz s = .ok (.two (.lzCtrl f) i) := fetchLz_eq_ok.2 ⟨out, size, hout, hsize,
      .inr ⟨hleft, inp, ip, n, hinp, hip, hn, .inl ⟨hzero, f, i, hget, fetchToken_of_decode hi, rfl⟩⟩⟩
    exact (step_of_fetchLz hp hs hfetch).trans (execTwo_lzCtrl hip h)

end Sys2Proof.Machine
